-- ==== Sys2Proof/Word.lean ====
section
/-! DEFINITION. The words of the block: bytes, 16-, 32- and 64-bit words, the eight-byte payload and the frame. -/

namespace Sys2Proof

/-- One data byte, a length, an address input, a tag or an operation code (00_scope.md R10). -/
abbrev Byte := BitVec 8

/-- A 16-bit command code or mode code. -/
abbrev Half := BitVec 16

/-- A 32-bit identifier, payload value, bitmap or binary32 pattern (00_scope.md R10). -/
abbrev Word := BitVec 32

/-- A command word (30_encoding.md R70). -/
abbrev CmdWord := BitVec 64

/-- The payload of a frame, exactly eight bytes: `d0` is `data[0]`, `d7` is `data[7]` (30_encoding.md R77). -/
structure Payload where
  d0 : Byte
  d1 : Byte
  d2 : Byte
  d3 : Byte
  d4 : Byte
  d5 : Byte
  d6 : Byte
  d7 : Byte
deriving DecidableEq, Repr, Inhabited

/-- A frame: identifier, byte count, eight data bytes (30_encoding.md R77; widths 00_scope.md R10). -/
structure Frame where
  id : Word
  len : Byte
  data : Payload
deriving DecidableEq, Repr, Inhabited

/-- The payload of eight zero bytes. -/
def Payload.zero : Payload := ⟨0, 0, 0, 0, 0, 0, 0, 0⟩

/-- The frame of zeros, the reset contents of `TXF` (10_state.md R24). -/
def Frame.zero : Frame := ⟨0, 0, Payload.zero⟩

end Sys2Proof
end

