-- ==== Sys2Proof/Syntax.lean ====
section
/-! DEFINITION. The instructions: one constructor for each row of the opcode table (30_encoding.md R71). -/

namespace Sys2Proof

/-- One command of the port with the fields its row uses: `addr` is the whole 8-bit `ADDR`, `tag` the whole 8-bit
`TAG`, `value` the 32-bit `VALUE` (30_encoding.md R71, R72). Every value of every field is encodable, so every term is
well formed. -/
inductive Instr where
  | select (tag : Byte)
  | reqv (addr : Byte)
  | reqi (addr : Byte)
  | reqt (addr : Byte)
  | reqf (addr : Byte)
  | reqc (addr : Byte)
  | setv (addr : Byte) (value : Word)
  | seti (addr : Byte) (value : Word)
  | modelow (addr : Byte)
  | modehigh (addr : Byte)
  | modeauto (addr : Byte)
  | enable (addr : Byte)
  | disable (addr : Byte)
  | parse
deriving DecidableEq, Repr

end Sys2Proof
end

