-- ==== Sys2Proof/WellFormed.lean ====
section
/-! DEFINITION. Which command words are well formed: the opcode table's rows of match and mask, written down from
opcode_table.json apart from the decoder, and the names of the reserved fields. -/

namespace Sys2Proof

/-- The fields of a command word that an operation may leave unused, and `RSV` (30_encoding.md R73). -/
inductive ReservedField where
  /-- `RSV = w[31:24]`, reserved in every word. -/
  | rsv
  /-- `TAG = w[23:16]`, reserved except for SELECT. -/
  | tag
  /-- `ADDR = w[15:8]`, reserved for SELECT and PARSE. -/
  | addr
  /-- `VALUE = w[63:32]`, reserved except for SETV and SETI. -/
  | value
deriving DecidableEq, Repr

/-- One row of opcode_table.json: a word is of the row when its bits under `mask` are `pattern`. -/
structure OpcodeRow where
  mnemonic : String
  pattern : CmdWord
  mask : CmdWord
deriving DecidableEq, Repr

/-- The fourteen rows of opcode_table.json. -/
def opcodeRows : List OpcodeRow :=
  [ ⟨"SELECT", 0x0000000000000001, 0xFFFFFFFFFF00FFFF⟩,
    ⟨"REQV", 0x0000000000000002, 0xFFFFFFFFFFFF00FF⟩,
    ⟨"REQI", 0x0000000000000003, 0xFFFFFFFFFFFF00FF⟩,
    ⟨"REQT", 0x0000000000000004, 0xFFFFFFFFFFFF00FF⟩,
    ⟨"REQF", 0x0000000000000005, 0xFFFFFFFFFFFF00FF⟩,
    ⟨"REQC", 0x0000000000000006, 0xFFFFFFFFFFFF00FF⟩,
    ⟨"SETV", 0x0000000000000007, 0x00000000FFFF00FF⟩,
    ⟨"SETI", 0x0000000000000008, 0x00000000FFFF00FF⟩,
    ⟨"MODELOW", 0x0000000000000009, 0xFFFFFFFFFFFF00FF⟩,
    ⟨"MODEHIGH", 0x000000000000000A, 0xFFFFFFFFFFFF00FF⟩,
    ⟨"MODEAUTO", 0x000000000000000B, 0xFFFFFFFFFFFF00FF⟩,
    ⟨"ENABLE", 0x000000000000000C, 0xFFFFFFFFFFFF00FF⟩,
    ⟨"DISABLE", 0x000000000000000D, 0xFFFFFFFFFFFF00FF⟩,
    ⟨"PARSE", 0x000000000000000E, 0xFFFFFFFFFFFFFFFF⟩ ]

/-- Does the word belong to the row? -/
def OpcodeRow.covers (r : OpcodeRow) (w : CmdWord) : Bool := w &&& r.mask == r.pattern

/-- A command word is well formed when it belongs to a row of the opcode table: its operation code is used and every
field the operation does not use is zero (30_encoding.md R71, R73). -/
def wellFormedWord (w : CmdWord) : Bool := opcodeRows.any (·.covers w)

/-- The operation code is one of the fourteen (30_encoding.md R71, R100). -/
def usedOpcode (op : Byte) : Bool := 0x01 ≤ op && op ≤ 0x0E

end Sys2Proof
end

