-- ==== Sys2Proof/Decode.lean ====
section
/-! DEFINITION. The decoder of command words, total and rejecting by name, and the encoder, both written from the field
table of 30_encoding.md R70 and R71. -/

namespace Sys2Proof

/-! ## The fields of a command word (30_encoding.md R70) -/

/-- `OP = w[7:0]`. -/
def opOf (w : CmdWord) : Byte := w.extractLsb' 0 8

/-- `ADDR = w[15:8]`. -/
def addrOf (w : CmdWord) : Byte := w.extractLsb' 8 8

/-- `TAG = w[23:16]`. -/
def tagOf (w : CmdWord) : Byte := w.extractLsb' 16 8

/-- `RSV = w[31:24]`. -/
def rsvOf (w : CmdWord) : Byte := w.extractLsb' 24 8

/-- `VALUE = w[63:32]`. -/
def valueOf (w : CmdWord) : Word := w.extractLsb' 32 32

/-! ## Decoding -/

/-- What a command word is. -/
inductive Decoded where
  /-- A command of the opcode table, every field it does not use being zero. -/
  | instr (i : Instr)
  /-- A reserved operation code, which the block executes as ILLEGAL (30_encoding.md R100). -/
  | illegal (op : Byte)
  /-- A used operation code with a nonzero field it does not use, which the model refuses (30_encoding.md R73). -/
  | reserved (f : ReservedField)
deriving DecidableEq, Repr

/-- `i`, unless one of the listed reserved fields is nonzero: then the first of those. -/
def checkReserved (i : Instr) : List (ReservedField × Bool) → Decoded
  | [] => .instr i
  | (f, nonzero) :: rest => if nonzero then .reserved f else checkReserved i rest

/-- A row that uses `ADDR` alone: `RSV`, `TAG` and `VALUE` are reserved. -/
def decodeAddr (mk : Byte → Instr) (w : CmdWord) : Decoded :=
  checkReserved (mk (addrOf w)) [(.rsv, rsvOf w != 0), (.tag, tagOf w != 0), (.value, valueOf w != 0)]

/-- A row that uses `ADDR` and `VALUE`: `RSV` and `TAG` are reserved. -/
def decodeAddrValue (mk : Byte → Word → Instr) (w : CmdWord) : Decoded :=
  checkReserved (mk (addrOf w) (valueOf w)) [(.rsv, rsvOf w != 0), (.tag, tagOf w != 0)]

/-- SELECT, which uses `TAG` alone: `RSV`, `ADDR` and `VALUE` are reserved. -/
def decodeSelect (w : CmdWord) : Decoded :=
  checkReserved (.select (tagOf w)) [(.rsv, rsvOf w != 0), (.addr, addrOf w != 0), (.value, valueOf w != 0)]

/-- PARSE, which uses no field: all four are reserved. -/
def decodeParse (w : CmdWord) : Decoded :=
  checkReserved .parse
    [(.rsv, rsvOf w != 0), (.tag, tagOf w != 0), (.addr, addrOf w != 0), (.value, valueOf w != 0)]

/-- The decoder: the operation code first, so a reserved one is ILLEGAL whatever the other fields hold
(60_exceptions.md R233), then the fields its row does not use (30_encoding.md R71, R73; 40_dispatch.md R120). -/
def decode (w : CmdWord) : Decoded :=
  match opOf w with
  | 0x01#8 => decodeSelect w
  | 0x02#8 => decodeAddr .reqv w
  | 0x03#8 => decodeAddr .reqi w
  | 0x04#8 => decodeAddr .reqt w
  | 0x05#8 => decodeAddr .reqf w
  | 0x06#8 => decodeAddr .reqc w
  | 0x07#8 => decodeAddrValue .setv w
  | 0x08#8 => decodeAddrValue .seti w
  | 0x09#8 => decodeAddr .modelow w
  | 0x0A#8 => decodeAddr .modehigh w
  | 0x0B#8 => decodeAddr .modeauto w
  | 0x0C#8 => decodeAddr .enable w
  | 0x0D#8 => decodeAddr .disable w
  | 0x0E#8 => decodeParse w
  | op => .illegal op

/-- The command word whose bits are the low `nbits` bits of `w`, every bit above them zero. -/
def tableWord (nbits w : Nat) : CmdWord := BitVec.ofNat 64 (w % 2 ^ nbits)

/-- The instruction the decoder reads from a row's bits, numbered as the opcode table numbers them. A command word has
no bytes in memory: it stands on the port as one 64-bit value (20_memory.md R52). -/
def decodeTableWord (nbits w : Nat) : Option Instr :=
  match decode (tableWord nbits w) with
  | .instr i => some i
  | .illegal _ => none
  | .reserved _ => none

/-! ## Encoding -/

/-- The five fields of a command word put together (30_encoding.md R70). -/
def packWord (value : Word) (tag addr op : Byte) : CmdWord := value ++ 0#8 ++ tag ++ addr ++ op

/-- The command word of an instruction, every field it does not use zero (30_encoding.md R71, R76). -/
def encode : Instr → CmdWord
  | .select tag => packWord 0 tag 0 0x01
  | .reqv addr => packWord 0 0 addr 0x02
  | .reqi addr => packWord 0 0 addr 0x03
  | .reqt addr => packWord 0 0 addr 0x04
  | .reqf addr => packWord 0 0 addr 0x05
  | .reqc addr => packWord 0 0 addr 0x06
  | .setv addr value => packWord value 0 addr 0x07
  | .seti addr value => packWord value 0 addr 0x08
  | .modelow addr => packWord 0 0 addr 0x09
  | .modehigh addr => packWord 0 0 addr 0x0A
  | .modeauto addr => packWord 0 0 addr 0x0B
  | .enable addr => packWord 0 0 addr 0x0C
  | .disable addr => packWord 0 0 addr 0x0D
  | .parse => packWord 0 0 0 0x0E

end Sys2Proof
end

