-- ==== Sys2Proof/Config.lean ====
section
/-! DEFINITION. What an instance of the block fixes: the per-protocol constants table, the block parameters, the checks
K1 to K9 of an instance, the reference instance `P_REF`, and the free values. -/

namespace Sys2Proof

/-- The two protocols of the block, A "UUgreen" and B "MMeet"; the set is closed (00_scope.md R2, 40_dispatch.md R124). -/
inductive Protocol where
  | A
  | B
deriving DecidableEq, Repr, Inhabited

/-- The 8-bit tag the host sees for a protocol (10_state.md R23). -/
def Protocol.tag : Protocol → Byte
  | .A => 0x00
  | .B => 0x01

/-- The protocol an 8-bit tag names, if it is recognized (40_dispatch.md R121, R124). -/
def Protocol.ofTag (t : Byte) : Option Protocol :=
  if t = 0x00 then some .A else if t = 0x01 then some .B else none

/-- The five measurements a frame can carry, in the order of classification (43_decoder.md R194). -/
inductive MeasField where
  | volt
  | curr
  | temp
  | flags
  | cap
deriving DecidableEq, Repr, Inhabited

/-- `SCALE_ARITH`, the arithmetic of the set-point product (42_encoder_control.md R161). -/
inductive ScaleArith where
  | exact
  | binary32
  | binary64
deriving DecidableEq, Repr, Inhabited

/-- `FLOAT_CONV`, the rounding of the decoder's float outputs (43_decoder.md R202). -/
inductive FloatConv where
  | single
  | f32TwoStep
  | f64ThenF32
deriving DecidableEq, Repr, Inhabited

/-- The constants both protocols have in the same width (30_encoding.md R91, R95 to R98). `DIV_p_S` is 1 and is no field. -/
structure ProtoTable where
  mask : Word
  expect : Word
  idRead : Word
  idCtrl : Word
  modeLow : Half
  modeHigh : Half
  pwrOn : Byte
  pwrOff : Byte
  mulV : Nat
  mulI : Nat
  divV : Nat
  divI : Nat
  divT : Nat
  divC : Nat
deriving DecidableEq, Repr, Inhabited

/-- Protocol A's open command codes, 8 bits each (30_encoding.md R93, R94); `CMD_A_VOLT` is fixed. -/
structure CodesA where
  curr : Byte
  temp : Byte
  flags : Byte
  cap : Byte
  setv : Byte
  seti : Byte
  mode : Byte
  power : Byte
deriving DecidableEq, Repr, Inhabited

/-- Protocol B's command codes, 16 bits each, all open (30_encoding.md R93, R94). -/
structure CodesB where
  volt : Half
  curr : Half
  temp : Half
  flags : Half
  cap : Half
  setv : Half
  seti : Half
  mode : Half
  power : Half
deriving DecidableEq, Repr, Inhabited

/-- One configuration of the block: the protocol constants table (30_encoding.md R90) and the block parameters
(00_scope.md R9). The spec's own choices are the defaults of the last three (92_eei_decisions.md D15, D17, D18).
`AUTO_SUP_B` is `not AUTO_SUP_A` (D34), so it is no field. -/
structure Cfg where
  tabA : ProtoTable
  tabB : ProtoTable
  codesA : CodesA
  codesB : CodesB
  mark0B : Byte
  mark1B : Byte
  autoSupA : Bool
  protoInit : Byte
  scaleArith : ScaleArith := .binary32
  floatConv : FloatConv := .single
  floatRawSigned : Bool := false
deriving DecidableEq, Repr, Inhabited

/-! ## Constants the source fixes (00_scope.md R8) -/

/-- `PREAMBLE_A` (30_encoding.md R92). -/
def Config.preambleA : Byte := 0x12

/-- `CMD_A_VOLT` (30_encoding.md R93). -/
def Config.cmdAVolt : Byte := 0x62

/-- `MODE_p_AUTO` of the protocol that supports auto mode (30_encoding.md R95, K7); the other protocol's is never used. -/
def Config.modeAuto : Half := 0x0000

/-- `AF_A`, protocol A's address field `id[20:14]` (00_scope.md R14). -/
def Config.afA : Word := 0x001FC000

/-- `AF_B`, protocol B's address field `id[17:11]` (00_scope.md R14). -/
def Config.afB : Word := 0x0003F800

/-! ## The checks of an instance (30_encoding.md R84, R93 to R98) -/

/-- K1: both templates have the extended-identifier flag, bit 31. -/
def ProtoTable.k1 (t : ProtoTable) : Bool := t.idRead.getLsbD 31 && t.idCtrl.getLsbD 31

/-- K2: both templates leave the address field `af` clear. -/
def ProtoTable.k2 (t : ProtoTable) (af : Word) : Bool := t.idRead &&& af == 0 && t.idCtrl &&& af == 0

/-- K3: the matcher does not look at the address field `af`. -/
def ProtoTable.k3 (t : ProtoTable) (af : Word) : Bool := t.mask &&& af == 0

/-- K4: every request frame passes the matcher of its own protocol. -/
def ProtoTable.k4 (t : ProtoTable) : Bool := t.idRead &&& t.mask == t.expect

/-- K8: the ON and OFF sentinels differ. -/
def ProtoTable.k8 (t : ProtoTable) : Bool := t.pwrOn != t.pwrOff

/-- K9: the expected pattern has no bit outside the mask. -/
def ProtoTable.k9 (t : ProtoTable) : Bool := t.expect &&& ~~~t.mask == 0

/-- The multipliers and divisors are positive integers (30_encoding.md R97, R98). -/
def ProtoTable.positive (t : ProtoTable) : Bool :=
  0 < t.mulV && 0 < t.mulI && 0 < t.divV && 0 < t.divI && 0 < t.divT && 0 < t.divC

/-- K1 to K4, K8, K9 and positivity for the protocol whose address field is `af`. -/
def ProtoTable.valid (t : ProtoTable) (af : Word) : Bool :=
  t.k1 && t.k2 af && t.k3 af && t.k4 && t.k8 && t.k9 && t.positive

/-- Protocol A's five read codes, in the order of `MeasField`. -/
def Cfg.readCodesA (c : Cfg) : List Byte :=
  [Config.cmdAVolt, c.codesA.curr, c.codesA.temp, c.codesA.flags, c.codesA.cap]

/-- Protocol B's five read codes, in the order of `MeasField`. -/
def Cfg.readCodesB (c : Cfg) : List Half :=
  [c.codesB.volt, c.codesB.curr, c.codesB.temp, c.codesB.flags, c.codesB.cap]

/-- K5: the five read codes of one protocol are pairwise distinct (30_encoding.md R93). -/
def Cfg.k5 (c : Cfg) : Bool := decide c.readCodesA.Nodup && decide c.readCodesB.Nodup

/-- K6: the set-point codes are no read code of their protocol (30_encoding.md R94). -/
def Cfg.k6 (c : Cfg) : Bool :=
  !c.readCodesA.contains c.codesA.setv && !c.readCodesA.contains c.codesA.seti
    && !c.readCodesB.contains c.codesB.setv && !c.readCodesB.contains c.codesB.seti

/-- `PROTO_INIT` is a recognized tag (70_reset_and_hazards.md R251). -/
def Cfg.initRecognized (c : Cfg) : Bool := (Protocol.ofTag c.protoInit).isSome

/-- Every check the model makes of an instance it is given. K7 holds of every `Cfg` by construction: one Boolean says
which protocol has auto mode, and `MODE_p_AUTO` of that protocol is the constant `Config.modeAuto`. -/
def Cfg.valid (c : Cfg) : Bool :=
  c.tabA.valid Config.afA && c.tabB.valid Config.afB && c.k5 && c.k6 && c.initRecognized

/-! ## The source's examples, optional checks (30_encoding.md R97, R98) -/

/-- R97's examples: multipliers 1000 or 100, and some protocol writes current times 100 and reads it divided by 1000. -/
def Cfg.meetsR97 (c : Cfg) : Bool :=
  [c.tabA.mulV, c.tabA.mulI, c.tabB.mulV, c.tabB.mulI].all (fun m => m == 1000 || m == 100)
    && [c.tabA, c.tabB].any (fun t => t.mulI == 100 && t.divI == 1000)

/-- R98's example with `x` as `X_PROTO` and `y` as the other: `x` divides by 1000, `y` divides temperature and
capability by 10. -/
def ProtoTable.scalesAsX (x y : ProtoTable) : Bool :=
  x.divV == 1000 && x.divI == 1000 && x.divT == 1000 && x.divC == 1000 && y.divT == 10 && y.divC == 10

/-- R98's examples, for some choice of `X_PROTO`. -/
def Cfg.meetsR98 (c : Cfg) : Bool := c.tabA.scalesAsX c.tabB || c.tabB.scalesAsX c.tabA

/-! ## The reference instance -/

/-- `P_REF` with `PROTO_INIT = A` (30_encoding.md R99): for the spec's vectors and for tests, never claimed of a real
module. -/
def Config.pRef : Cfg where
  tabA := ⟨0x9FE00000, 0x82400000, 0x82400000, 0x82402000, 0x0001, 0x0002, 0x01, 0x00, 1000, 100, 1000, 1000, 1000, 1000⟩
  tabB := ⟨0x9FFC0000, 0x81800000, 0x81800000, 0x81800400, 0x0001, 0x0002, 0x55, 0xAA, 100, 100, 100, 100, 10, 10⟩
  codesA := ⟨0x30, 0x31, 0x32, 0x33, 0x40, 0x41, 0x42, 0x43⟩
  codesB := ⟨0x0101, 0x0102, 0x0103, 0x0104, 0x0105, 0x0201, 0x0202, 0x0203, 0x0204⟩
  mark0B := 0xA5
  mark1B := 0x5A
  autoSupA := false
  protoInit := 0x00

/-- A configuration that passed the checks. Its default exists only so that `Config.chosen` is of an inhabited type. -/
structure ValidCfg where
  val : Cfg := Config.pRef
  ok : val.valid = true := by decide
deriving Inhabited

/-! ## Free values -/

/-- The instance the block is built with: OPEN in the spec (30_encoding.md R90 to R98; 70_reset_and_hazards.md R251).
DESIGN CHOICE (log 2): opaque, so that a claim about it holds of every instance that passes the checks. -/
opaque Config.chosen : ValidCfg

/-- The unspecified body of an out-of-range set-point, one free 32-bit value for each draw (42_encoder_control.md R162;
93_implementation_defined.md I2; log 4). -/
opaque Config.drawnBody : Nat → Word

/-- What a READ of `RXF` returns before the first RXLOAD: any 104 bits (93_implementation_defined.md I4; log 3). -/
opaque Config.unwrittenRxf : Nat → Frame

end Sys2Proof
end

