-- ==== Sys2Proof/Machine/Flags.lean ====
section
/-! DEFINITION. The flag-like values of the block, which has no condition codes (10_state.md R32): the codes of `STATUS`
and the presence bits of `MEAS_P`. -/

namespace Sys2Proof.Machine

/-! ## The codes of `STATUS` (10_state.md R31) -/

/-- No command since reset. -/
def stIdle : Byte := 0x00

/-- An encoder command wrote `TXF`. -/
def stFrame : Byte := 0x01

/-- MODEAUTO under a protocol without auto mode. -/
def stUnsupported : Byte := 0x02

/-- SELECT of a recognized tag. -/
def stSelectOk : Byte := 0x03

/-- SELECT of an unrecognized tag. -/
def stSelectRejected : Byte := 0x04

/-- PARSE decoded a measurement. -/
def stOk : Byte := 0x05

/-- PARSE: right protocol, unknown command code. -/
def stUnknownCmd : Byte := 0x06

/-- PARSE: wrong protocol or wrong length. -/
def stInvalidFrame : Byte := 0x07

/-- A reserved operation code. -/
def stIllegalOp : Byte := 0x08

/-! ## The presence bits of `MEAS_P` (10_state.md R29) -/

/-- `P_ADDR`, bit 0. -/
def pAddr : Byte := 0x01

/-- `P_X`, the presence bit of a value field: bits 1 to 5. -/
def pField : MeasField → Byte
  | .volt => 0x02
  | .curr => 0x04
  | .temp => 0x08
  | .flags => 0x10
  | .cap => 0x20

end Sys2Proof.Machine
end

