-- ==== Sys2Proof/Machine/Float.lean ====
section
/-! DEFINITION. IEEE 754 binary32 and binary64 as the spec uses them: exact values, and rounding to nearest with ties to
even (00_scope.md R13; 93_implementation_defined.md I9; PRESUMED by the spec itself, log 12). Magnitudes are pairs of
natural numbers; signs are kept beside them. -/

namespace Sys2Proof.Machine

/-- The magnitude `num / den` of an exact rational. -/
structure Ratio where
  num : Nat
  den : Nat
deriving DecidableEq, Repr

/-- The magnitude `sig * 2 ^ exp`. -/
structure Dyad where
  sig : Nat
  exp : Int
deriving DecidableEq, Repr

/-- A binary floating-point format: significand width, and the exponents of the last place of its smallest and of its
largest binade. -/
structure FloatFormat where
  prec : Nat
  minExp : Int
  maxExp : Int
deriving DecidableEq, Repr

/-- binary32: 24-bit significand (93_implementation_defined.md I9). -/
def binary32 : FloatFormat := ⟨24, -149, 104⟩

/-- binary64: 53-bit significand (93_implementation_defined.md I9). -/
def binary64 : FloatFormat := ⟨53, -1074, 971⟩

/-- `x * 2 ^ e`, exactly. -/
def Ratio.scalePow (x : Ratio) (e : Int) : Ratio :=
  match e with
  | .ofNat k => ⟨x.num * 2 ^ k, x.den⟩
  | .negSucc k => ⟨x.num, x.den * 2 ^ (k + 1)⟩

/-- `x * m`, exactly. -/
def Ratio.mulNat (x : Ratio) (m : Nat) : Ratio := ⟨x.num * m, x.den⟩

/-- `x / d`, exactly. -/
def Ratio.divNat (x : Ratio) (d : Nat) : Ratio := ⟨x.num, x.den * d⟩

/-- The integer part of `x`: `trunc` of a magnitude (00_scope.md R11). -/
def Ratio.floor (x : Ratio) : Nat := x.num / x.den

/-- The exact value of a dyadic magnitude. -/
def Dyad.toRatio (d : Dyad) : Ratio := Ratio.scalePow ⟨d.sig, 1⟩ d.exp

/-- `n / d` rounded to the nearest integer, a tie to the even one. -/
def halfEven (n d : Nat) : Nat :=
  let q := n / d
  let r := n % d
  if 2 * r < d then q
  else if d < 2 * r then q + 1
  else if q % 2 = 0 then q
  else q + 1

/-- The exponent of the leading bit of a positive `x`: the `k` with `2 ^ k ≤ x < 2 ^ (k + 1)`. -/
def Ratio.floorLog2 (x : Ratio) : Int :=
  let k : Int := (x.num.log2 : Int) - (x.den.log2 : Int)
  let y := x.scalePow (-k)
  if y.num < y.den then k - 1 else k

/-- The exponent of the last place of `x` in the format: `ulp(x) = 2 ^ x.lastPlace fmt`. -/
def Ratio.lastPlace (fmt : FloatFormat) (x : Ratio) : Int :=
  max fmt.minExp (x.floorLog2 - (fmt.prec - 1))

/-- `sig * 2 ^ exp` with a significand that fits, or `none` where it lies beyond the largest binade. -/
def FloatFormat.fit (fmt : FloatFormat) (sig : Nat) (exp : Int) : Option Dyad :=
  let d : Dyad := if sig = 2 ^ fmt.prec then ⟨2 ^ (fmt.prec - 1), exp + 1⟩ else ⟨sig, exp⟩
  if fmt.maxExp < d.exp then none else some d

/-- The value of the format nearest to `x`, ties to even; `none` where it overflows (00_scope.md R13). -/
def FloatFormat.round (fmt : FloatFormat) (x : Ratio) : Option Dyad :=
  if x.num = 0 then some ⟨0, fmt.minExp⟩
  else
    let e := x.lastPlace fmt
    let y := x.scalePow (-e)
    fmt.fit (halfEven y.num y.den) e

/-! ## binary32 patterns -/

/-- The sign bit of a binary32 pattern (30_encoding.md R72). -/
def signOf (v : Word) : Bool := v.getLsbD 31

/-- The exponent field `v[30:23]`. -/
def expField (v : Word) : Nat := (v.extractLsb' 23 8).toNat

/-- The fraction field `v[22:0]`. -/
def fracField (v : Word) : Nat := (v.extractLsb' 0 23).toNat

/-- `isFinite(v)` (00_scope.md R13). -/
def isFinite32 (v : Word) : Bool := expField v != 255

/-- The magnitude of `real(v)` for a finite `v` (00_scope.md R13). -/
def magnitude32 (v : Word) : Dyad :=
  if expField v = 0 then ⟨fracField v, -149⟩ else ⟨2 ^ 23 + fracField v, (expField v : Int) - 150⟩

/-- The binary32 pattern of a rounded magnitude with its sign; an overflow is the infinity of that sign. -/
def pack32 (neg : Bool) (d : Option Dyad) : Word :=
  let body : Nat :=
    match d with
    | none => 0x7F800000
    | some d => (d.exp + 149).toNat * 2 ^ 23 + d.sig
  BitVec.ofNat 32 (body + if neg then 2 ^ 31 else 0)

/-- `f32(x)` for `x` given by sign and magnitude (00_scope.md R13). -/
def f32 (neg : Bool) (x : Ratio) : Word := pack32 neg (binary32.round x)

/-! ## The two conversions of the codec -/

/-- `|prod(v, M)|` for a finite `v`, in the chosen arithmetic; `none` where the product overflows its format
(42_encoder_control.md R161). -/
def prodMagnitude (arith : ScaleArith) (v : Word) (m : Nat) : Option Ratio :=
  let exactProd := (magnitude32 v).toRatio.mulNat m
  match arith with
  | .exact => some exactProd
  | .binary32 => (binary32.round exactProd).map Dyad.toRatio
  | .binary64 => (binary64.round exactProd).map Dyad.toRatio

/-- The body of a set-point, `S = trunc(prod(v, M))`, where it is in range: `v` finite, the product finite and
`0 <= S <= 2^31 - 1`; `none` where it is out of range. A negative `v` is in range when `S` is 0
(42_encoder_control.md R162). DESIGN CHOICE (log 20): R162's closing remark puts every negative `v` with `real(v) * M > -1`
in range, while its formula gives `S = -1` where such a product rounds to -1 under BINARY32 or BINARY64; the model follows
the formula, so that corner (`v = 0xBC23D70A`, `M = 100`) is out of range and its body is a free value. -/
def scaledBody (arith : ScaleArith) (v : Word) (m : Nat) : Option Word :=
  if isFinite32 v then
    match prodMagnitude arith v m with
    | none => none
    | some prod =>
      let s := prod.floor
      if (signOf v && s != 0) || 2 ^ 31 ≤ s then none else some (BitVec.ofNat 32 s)
  else none

/-- Sign and magnitude of `rawF(r)`: unsigned, or two's complement when `FLOAT_RAW_SIGNED` (43_decoder.md R201). -/
def rawFloat (signed : Bool) (r : Word) : Bool × Nat :=
  if signed && r.msb then (true, 2 ^ 32 - r.toNat) else (false, r.toNat)

/-- The magnitude a rounded first step leaves, for the second rounding of R202; an overflow leaves none. -/
def roundTwice (first : Option Dyad) (next : Ratio → Ratio) : Option Dyad :=
  match first with
  | none => none
  | some d => binary32.round (next d.toRatio)

/-- `rawF(r) / DIV` as a binary32 by `FLOAT_CONV` (43_decoder.md R202). -/
def convFloat (conv : FloatConv) (signed : Bool) (r : Word) (div : Nat) : Word :=
  let raw := rawFloat signed r
  let whole : Ratio := ⟨raw.2, 1⟩
  pack32 raw.1 <|
    match conv with
    | .single => binary32.round (whole.divNat div)
    | .f32TwoStep => roundTwice (binary32.round whole) (·.divNat div)
    | .f64ThenF32 => roundTwice (binary64.round (whole.divNat div)) id

end Sys2Proof.Machine
end

