-- ==== Sys2Proof/Machine/Operands.lean ====
section
/-! DEFINITION. Operands and constants: the accessors of the constants table by protocol, the address field, the byte
order of a payload, the command code and the raw value of a frame, and the scaling of the raw value. -/

namespace Sys2Proof.Machine

/-! ## The constants table by protocol -/

/-- The constants of protocol `p` (30_encoding.md R90). -/
def tableOf (c : Cfg) : Protocol → ProtoTable
  | .A => c.tabA
  | .B => c.tabB

/-- `ADDR_LSB_p` (30_encoding.md R80). -/
def addrLsb : Protocol → Nat
  | .A => 14
  | .B => 11

/-- `AF_p = 0x7F << ADDR_LSB_p` (00_scope.md R14). -/
def addrField (p : Protocol) : Word := 0x7F#32 <<< addrLsb p

/-- `CMD_p_X`, protocol A's 8-bit codes zero extended (30_encoding.md R93). -/
def readCode (c : Cfg) (p : Protocol) (x : MeasField) : Half :=
  match p, x with
  | .A, .volt => Config.cmdAVolt.setWidth 16
  | .A, .curr => c.codesA.curr.setWidth 16
  | .A, .temp => c.codesA.temp.setWidth 16
  | .A, .flags => c.codesA.flags.setWidth 16
  | .A, .cap => c.codesA.cap.setWidth 16
  | .B, .volt => c.codesB.volt
  | .B, .curr => c.codesB.curr
  | .B, .temp => c.codesB.temp
  | .B, .flags => c.codesB.flags
  | .B, .cap => c.codesB.cap

/-- `CMD_p_SETV` (30_encoding.md R94). -/
def codeSetv (c : Cfg) : Protocol → Half
  | .A => c.codesA.setv.setWidth 16
  | .B => c.codesB.setv

/-- `CMD_p_SETI` (30_encoding.md R94). -/
def codeSeti (c : Cfg) : Protocol → Half
  | .A => c.codesA.seti.setWidth 16
  | .B => c.codesB.seti

/-- `CMD_p_MODE` (30_encoding.md R94). -/
def codeMode (c : Cfg) : Protocol → Half
  | .A => c.codesA.mode.setWidth 16
  | .B => c.codesB.mode

/-- `CMD_p_POWER` (30_encoding.md R94). -/
def codePower (c : Cfg) : Protocol → Half
  | .A => c.codesA.power.setWidth 16
  | .B => c.codesB.power

/-- `AUTO_SUP_p`: exactly one protocol has auto mode (30_encoding.md R95, K7; 92_eei_decisions.md D34). -/
def autoSupported (c : Cfg) : Protocol → Bool
  | .A => c.autoSupA
  | .B => !c.autoSupA

/-! ## The identifier -/

/-- `ADDR[6:0]`; `ADDR[7]` is read and discarded (30_encoding.md R72). -/
def addr7 (addr : Byte) : BitVec 7 := addr.extractLsb' 0 7

/-- The identifier of a generated frame: the template with its address field replaced (30_encoding.md R81). -/
def buildId (p : Protocol) (template : Word) (addr : Byte) : Word :=
  (template &&& ~~~addrField p) ||| ((addr7 addr).setWidth 32 <<< addrLsb p)

/-- The address in an identifier, `(id >> ADDR_LSB_p) & 0x7F` (30_encoding.md R82). -/
def idAddr (p : Protocol) (id : Word) : BitVec 7 := id.extractLsb' (addrLsb p) 7

/-! ## The payload -/

/-- `be32(b0, b1, b2, b3)` (00_scope.md R11). -/
def be32 (b0 b1 b2 b3 : Byte) : Word := b0 ++ b1 ++ b2 ++ b3

/-- Offsets 0 to 3 of a protocol's frame (30_encoding.md R85, R86) and the big-endian body at offsets 4 to 7 (R87). -/
def buildPayload (c : Cfg) (p : Protocol) (code : Half) (body : Word) : Payload :=
  let b4 : Byte := body.extractLsb' 24 8
  let b5 : Byte := body.extractLsb' 16 8
  let b6 : Byte := body.extractLsb' 8 8
  let b7 : Byte := body.extractLsb' 0 8
  match p with
  | .A => ⟨Config.preambleA, code.extractLsb' 0 8, 0x00, 0x00, b4, b5, b6, b7⟩
  | .B => ⟨c.mark0B, c.mark1B, code.extractLsb' 8 8, code.extractLsb' 0 8, b4, b5, b6, b7⟩

/-- The command code of a received payload: `data[1]` under A, zero extended, `data[2] ++ data[3]` under B
(30_encoding.md R89). -/
def payloadCode (p : Protocol) (d : Payload) : Half :=
  match p with
  | .A => d.d1.setWidth 16
  | .B => d.d2 ++ d.d3

/-- The raw value, offsets 4 to 7 big-endian (43_decoder.md R197). -/
def rawValue (d : Payload) : Word := be32 d.d4 d.d5 d.d6 d.d7

/-- The payload with offsets 2 and 3 forced to zero (43_decoder.md R196). -/
def sanitize (d : Payload) : Payload := { d with d2 := 0x00, d3 := 0x00 }

/-! ## Scaling of the raw value (43_decoder.md R200) -/

/-- The temperature register: `tdiv(sint(r), DIV_p_T) mod 2^32` (43_decoder.md R205). -/
def scaleTemp (div : Nat) (r : Word) : Word := BitVec.ofInt 32 (r.toInt.tdiv div)

/-- A float register: `conv(rawF(r), DIV)` under the block parameters (43_decoder.md R202). -/
def scaleFloat (c : Cfg) (div : Nat) (r : Word) : Word := convFloat c.floatConv c.floatRawSigned r div

end Sys2Proof.Machine
end

