-- ==== Sys2Proof/Machine/State.lean ====
section
/-! DEFINITION. The state of the block as plain data, the host's transactions, the faults and refusals, and the state
right after reset. -/

namespace Sys2Proof.Machine

/-- The measurement registers `MEAS_ADDR`, `MEAS_V`, `MEAS_I`, `MEAS_T`, `MEAS_S`, `MEAS_C` and the presence set
`MEAS_P` (10_state.md R28, R29). -/
structure Measurement where
  addr : Byte
  v : Word
  i : Word
  t : Word
  s : Word
  c : Word
  p : Byte
deriving DecidableEq, Repr, Inhabited

/-- Every measurement register zero: the reset value (10_state.md R28) and the fresh measurement of every PARSE
(43_decoder.md R191). -/
def Measurement.cleared : Measurement := ⟨0, 0, 0, 0, 0, 0, 0⟩

/-- The registers a READ can name: every register of 10_state.md R22 but `RXW` (20_memory.md R51). -/
inductive RegName where
  | proto
  | txf
  | txv
  | rxf
  | measAddr
  | measV
  | measI
  | measT
  | measS
  | measC
  | measP
  | status
deriving DecidableEq, Repr

/-- What a READ returns: the whole register, at its own width (20_memory.md R52). -/
inductive Reply where
  | bit (b : Bool)
  | byte (b : Byte)
  | word (w : Word)
  | frame (f : Frame)
deriving DecidableEq, Repr

/-- The host's three transactions (20_memory.md R51). -/
inductive Transaction where
  /-- `CMD(w)`: the block executes the command word `w`. -/
  | cmd (w : CmdWord)
  /-- `RXLOAD(id, len, d0..d7)`: the host writes `RXF`. -/
  | rxload (f : Frame)
  /-- `READ(r)`: the host reads the register `r`. -/
  | read (r : RegName)
deriving DecidableEq, Repr

/-- The state of the block (10_state.md R22) and, after it, the model's own fields. -/
structure State where
  /-- `PROTO`, as the two-valued type that 40_dispatch.md R124 asks for (10_state.md R23). -/
  proto : Protocol
  /-- `TXF`, the frame-out register (10_state.md R24). -/
  txf : Frame
  /-- `TXV` (10_state.md R25). -/
  txv : Bool
  /-- `RXF`, the frame-in register (10_state.md R26). -/
  rxf : Frame
  /-- `RXW`, the written mark of `RXF`, the spec's own model-only bit (10_state.md R27). -/
  rxw : Bool
  /-- `MEAS_*` (10_state.md R28, R29). -/
  meas : Measurement
  /-- `STATUS` (10_state.md R31). -/
  status : Byte
  /-- MODEL: the configuration a model "takes as an argument" (30_encoding.md R90; log 1). No step changes it. -/
  cfg : Cfg
  /-- MODEL: the transactions presented and not yet taken, oldest first (20_memory.md R57; log 5). -/
  pending : List Transaction
  /-- MODEL: what the most recent READ returned, on the host's side of the port (20_memory.md R51; log 6). -/
  reply : Option Reply
  /-- MODEL: how many set-point bodies have been drawn (42_encoder_control.md R162; log 4). -/
  draws : Nat
deriving DecidableEq, Repr

/-- Why the machine stops with a fault. -/
inductive Fault where
  /-- `UNWRITTEN_RXF`: a PARSE while `RXW = 0`. Raised by PARSE alone, as the spec's own model rule says (10_state.md
  R27; 43_decoder.md R190; 60_exceptions.md R243). Safe: nothing is claimed of such a run. -/
  | unwrittenRxf
deriving DecidableEq, Repr

/-- Why the machine gives no meaning. -/
inductive Refusal where
  /-- An instruction without a meaning yet, by its mnemonic. Raised by no arm: every instruction has its meaning. Safe. -/
  | notModelled (mnemonic : String)
  /-- A command word whose operation code is used and whose named field, which the operation does not use, is nonzero.
  Raised by a CMD transaction, as the spec orders (30_encoding.md R73; 60_exceptions.md R243; log 7). Safe. -/
  | reservedField (f : ReservedField)
  /-- A configuration that fails the checks, `PROTO_INIT` among them. Raised by `State.configure`, before any step
  (70_reset_and_hazards.md R251; 30_encoding.md R84). Safe. -/
  | badConfiguration
deriving DecidableEq, Repr

/-- The state right after reset under the configuration `c` (70_reset_and_hazards.md R250, R252): every register at
its reset value, the configuration untouched. `RXF` is unspecified there; its zeros are a DESIGN CHOICE (log 3) that no
READ and no PARSE shows. A `PROTO_INIT` that is no recognized tag never gets this far (`State.configure`). -/
def State.initial (c : Cfg) : State where
  proto := (Protocol.ofTag c.protoInit).getD .A
  txf := Frame.zero
  txv := false
  rxf := Frame.zero
  rxw := false
  meas := Measurement.cleared
  status := 0x00
  cfg := c
  pending := []
  reply := none
  draws := 0

/-- What the environment does before the first command: fix the configuration, which the model checks, then reset
(70_reset_and_hazards.md R251, R253; 30_encoding.md R84). -/
def State.configure (c : Cfg) : Except Refusal State :=
  if c.valid then .ok (State.initial c) else .error .badConfiguration

/-- The machine right after reset, built with the open instance `Config.chosen` (log 2). -/
def State.reset : State := State.initial Config.chosen.val

end Sys2Proof.Machine
end

