-- ==== Sys2Proof/Machine/Ops.lean ====
section
/-! DEFINITION. The shared operations over the registers: the frame builder of every encoder command, the unsupported
outcome, protocol selection, the set-point, and the stages of PARSE. The block takes no exception (60_exceptions.md R230),
so there is no exception entry and no return to give: an outcome is a code in `STATUS`. -/

namespace Sys2Proof.Machine

/-! ## The encoder -/

/-- The frame of protocol `p` with the identifier template, command code, body and address input given
(30_encoding.md R88). -/
def frameOf (c : Cfg) (p : Protocol) (template : Word) (code : Half) (body : Word) (addr : Byte) : Frame :=
  ⟨buildId p template addr, 0x08, buildPayload c p code body⟩

/-- What every frame-producing command writes: `TXF`, `TXV <- 1`, `STATUS <- FRAME` (30_encoding.md R88;
10_state.md R24, R25). -/
def sendFrame (f : Frame) (s : State) : State := { s with txf := f, txv := true, status := stFrame }

/-- A request for the measurement `x`: read class, the read code of `x`, body 0 (41_encoder_requests.md R140). -/
def requestFrame (x : MeasField) (addr : Byte) (s : State) : State :=
  sendFrame (frameOf s.cfg s.proto (tableOf s.cfg s.proto).idRead (readCode s.cfg s.proto x) 0 addr) s

/-- A control command: control class, its code, its body (42_encoder_control.md R160). -/
def controlFrame (code : Half) (body : Word) (addr : Byte) (s : State) : State :=
  sendFrame (frameOf s.cfg s.proto (tableOf s.cfg s.proto).idCtrl code body addr) s

/-- A mode command: the 16-bit mode code zero extended as the body (42_encoder_control.md R170). -/
def modeFrame (mode : Half) (addr : Byte) (s : State) : State :=
  controlFrame (codeMode s.cfg s.proto) (mode.setWidth 32) addr s

/-- A power command: the 8-bit sentinel zero extended as the body (42_encoder_control.md R177). -/
def powerFrame (sentinel : Byte) (addr : Byte) (s : State) : State :=
  controlFrame (codePower s.cfg s.proto) (sentinel.setWidth 32) addr s

/-- A set-point: the body is `trunc(prod(v, M))` where that is in range; elsewhere it is a free value and the frame is
built all the same (42_encoder_control.md R162, R163; log 4). -/
def setPoint (code : Half) (mul : Nat) (addr : Byte) (v : Word) (s : State) : State :=
  match scaledBody s.cfg.scaleArith v mul with
  | some body => controlFrame code body addr s
  | none => { controlFrame code (Config.drawnBody s.draws) addr s with draws := s.draws + 1 }

/-- The UNSUPPORTED outcome: `TXV <- 0`, `STATUS <- UNSUPPORTED`, `TXF` keeps its contents
(42_encoder_control.md R174). -/
def unsupported (s : State) : State := { s with txv := false, status := stUnsupported }

/-! ## The dispatcher -/

/-- Protocol selection: a recognized tag is selected, any other is rejected and `PROTO` stays (40_dispatch.md R121). -/
def selectProtocol (tag : Byte) (s : State) : State :=
  match Protocol.ofTag tag with
  | some p => { s with proto := p, status := stSelectOk }
  | none => { s with status := stSelectRejected }

/-- ILLEGAL, the behaviour of a reserved operation code (40_dispatch.md R125). -/
def illegalCommand (s : State) : State := { s with status := stIllegalOp }

/-! ## The decoder -/

/-- The matcher: the frame belongs to `p` and has length 8 (43_decoder.md R192). -/
def frameMatches (c : Cfg) (p : Protocol) (f : Frame) : Bool :=
  f.id &&& (tableOf c p).mask == (tableOf c p).expect && f.len == 0x08

/-- The router: the first field, in the order of 43_decoder.md R194, whose read code the code is. -/
def classify (c : Cfg) (p : Protocol) (code : Half) : Option MeasField :=
  [MeasField.volt, .curr, .temp, .flags, .cap].find? (fun x => readCode c p x == code)

/-- What the sanitizer leaves of an accepted frame: under A offsets 2 and 3 cleared, under B the frame itself
(43_decoder.md R196). -/
def sanitizeFrame (p : Protocol) (f : Frame) : Frame :=
  match p with
  | .A => { f with data := sanitize f.data }
  | .B => f

/-- The measurement of an accepted frame: address, the one value field scaled, and the presence set; every other
register zero (43_decoder.md R200 to R208). -/
def measurementOf (c : Cfg) (p : Protocol) (x : MeasField) (a : BitVec 7) (r : Word) : Measurement :=
  let fresh : Measurement := { Measurement.cleared with addr := a.setWidth 8, p := pAddr ||| pField x }
  let k := tableOf c p
  match x with
  | .volt => { fresh with v := scaleFloat c k.divV r }
  | .curr => { fresh with i := scaleFloat c k.divI r }
  | .temp => { fresh with t := scaleTemp k.divT r }
  | .flags => { fresh with s := r }
  | .cap => { fresh with c := scaleFloat c k.divC r }

/-- What PARSE writes: `STATUS`, the measurement registers and `RXF`. -/
structure Parsed where
  status : Byte
  meas : Measurement
  rxf : Frame
deriving DecidableEq, Repr

/-- The decoder, a total function of the configuration, the protocol and the frame (43_decoder.md R190, R199, R210):
the matcher, then the sanitizer, then the router. -/
def parseFrame (c : Cfg) (p : Protocol) (f : Frame) : Parsed :=
  if frameMatches c p f then
    let clean := sanitizeFrame p f
    match classify c p (payloadCode p f.data) with
    | some x => ⟨stOk, measurementOf c p x (idAddr p f.id) (rawValue clean.data), clean⟩
    | none => ⟨stUnknownCmd, Measurement.cleared, clean⟩
  else ⟨stInvalidFrame, Measurement.cleared, f⟩

/-- PARSE's writes put into the state (43_decoder.md R190). -/
def takeParsed (r : Parsed) (s : State) : State := { s with status := r.status, meas := r.meas, rxf := r.rxf }

/-! ## The host's side of the port -/

/-- RXLOAD: the host writes the whole frame and the written mark (20_memory.md R51; 10_state.md R27). -/
def rxLoad (f : Frame) (s : State) : State := { s with rxf := f, rxw := true }

/-- What a READ of `r` returns (20_memory.md R51). `RXF` before the first RXLOAD is unspecified: a free value, the same
for two READs with nothing between them, since READ has no side effect (R53; 93_implementation_defined.md I4; log 3). -/
def readRegister (r : RegName) (s : State) : Reply :=
  match r with
  | .proto => .byte s.proto.tag
  | .txf => .frame s.txf
  | .txv => .bit s.txv
  | .rxf => .frame (if s.rxw then s.rxf else Config.unwrittenRxf s.draws)
  | .measAddr => .byte s.meas.addr
  | .measV => .word s.meas.v
  | .measI => .word s.meas.i
  | .measT => .word s.meas.t
  | .measS => .word s.meas.s
  | .measC => .word s.meas.c
  | .measP => .byte s.meas.p
  | .status => .byte s.status

/-- READ: the value goes to the host; no register changes (20_memory.md R53). -/
def readToHost (r : RegName) (s : State) : State := { s with reply := some (readRegister r s) }

end Sys2Proof.Machine
end

