-- ==== Sys2Proof/Machine/Dispatcher.lean ====
section
/-! DEFINITION. The dispatcher family: SELECT (40_dispatch.md R121). -/

namespace Sys2Proof.Machine

/-- SELECT: choose the protocol for all later commands (40_dispatch.md R121). -/
def execSelect (tag : Byte) (s : State) : Host.Outcome State Fault Refusal := .next (selectProtocol tag s)

end Sys2Proof.Machine
end

