-- ==== Sys2Proof/Machine/Modes.lean ====
section
/-! DEFINITION. The mode family: MODELOW, MODEHIGH, MODEAUTO (42_encoder_control.md R170 to R175). -/

namespace Sys2Proof.Machine

/-- MODELOW: select the low operating mode (42_encoder_control.md R171). -/
def execModelow (addr : Byte) (s : State) : Host.Outcome State Fault Refusal :=
  .next (modeFrame (tableOf s.cfg s.proto).modeLow addr s)

/-- MODEHIGH: select the high operating mode (42_encoder_control.md R172). -/
def execModehigh (addr : Byte) (s : State) : Host.Outcome State Fault Refusal :=
  .next (modeFrame (tableOf s.cfg s.proto).modeHigh addr s)

/-- MODEAUTO: select the automatic mode where the protocol has one, else UNSUPPORTED (42_encoder_control.md R173,
R174). -/
def execModeauto (addr : Byte) (s : State) : Host.Outcome State Fault Refusal :=
  .next (if autoSupported s.cfg s.proto then modeFrame Config.modeAuto addr s else unsupported s)

end Sys2Proof.Machine
end

