-- ==== Sys2Proof/Machine/Parser.lean ====
section
/-! DEFINITION. The decoder family: PARSE (43_decoder.md R190 to R210). -/

namespace Sys2Proof.Machine

/-- PARSE: decode `RXF` under `PROTO`. While `RXW = 0` the register is unwritten and the model faults, as the rule's own
pseudocode says (43_decoder.md R190; 10_state.md R27; 60_exceptions.md R243; log 9). The host may not issue such a PARSE
(70_reset_and_hazards.md R253). -/
def execParse (s : State) : Host.Outcome State Fault Refusal :=
  if s.rxw then .next (takeParsed (parseFrame s.cfg s.proto s.rxf) s) else .fault .unwrittenRxf

end Sys2Proof.Machine
end

