-- ==== Sys2Proof/Machine/Power.lean ====
section
/-! DEFINITION. The power family: ENABLE, DISABLE (42_encoder_control.md R177 to R180). -/

namespace Sys2Proof.Machine

/-- ENABLE: switch the module's output on (42_encoder_control.md R178). -/
def execEnable (addr : Byte) (s : State) : Host.Outcome State Fault Refusal :=
  .next (powerFrame (tableOf s.cfg s.proto).pwrOn addr s)

/-- DISABLE: switch the module's output off (42_encoder_control.md R179). -/
def execDisable (addr : Byte) (s : State) : Host.Outcome State Fault Refusal :=
  .next (powerFrame (tableOf s.cfg s.proto).pwrOff addr s)

end Sys2Proof.Machine
end

