-- ==== Sys2Proof/Machine/Requests.lean ====
section
/-! DEFINITION. The request family: REQV, REQI, REQT, REQF, REQC (41_encoder_requests.md R140 to R145). -/

namespace Sys2Proof.Machine

/-- REQV: request the output voltage (41_encoder_requests.md R141). -/
def execReqv (addr : Byte) (s : State) : Host.Outcome State Fault Refusal := .next (requestFrame .volt addr s)

/-- REQI: request the output current (41_encoder_requests.md R142). -/
def execReqi (addr : Byte) (s : State) : Host.Outcome State Fault Refusal := .next (requestFrame .curr addr s)

/-- REQT: request the temperature (41_encoder_requests.md R143). -/
def execReqt (addr : Byte) (s : State) : Host.Outcome State Fault Refusal := .next (requestFrame .temp addr s)

/-- REQF: request the status flags (41_encoder_requests.md R144). -/
def execReqf (addr : Byte) (s : State) : Host.Outcome State Fault Refusal := .next (requestFrame .flags addr s)

/-- REQC: request the current capability (41_encoder_requests.md R145). -/
def execReqc (addr : Byte) (s : State) : Host.Outcome State Fault Refusal := .next (requestFrame .cap addr s)

end Sys2Proof.Machine
end

