-- ==== Sys2Proof/Machine/SetPoints.lean ====
section
/-! DEFINITION. The set-point family: SETV, SETI (42_encoder_control.md R160 to R165). -/

namespace Sys2Proof.Machine

/-- SETV: set the output voltage, scaled by `MUL_p_V` (42_encoder_control.md R163). -/
def execSetv (addr : Byte) (value : Word) (s : State) : Host.Outcome State Fault Refusal :=
  .next (setPoint (codeSetv s.cfg s.proto) (tableOf s.cfg s.proto).mulV addr value s)

/-- SETI: set the output current limit, scaled by `MUL_p_I` (42_encoder_control.md R164). -/
def execSeti (addr : Byte) (value : Word) (s : State) : Host.Outcome State Fault Refusal :=
  .next (setPoint (codeSeti s.cfg s.proto) (tableOf s.cfg s.proto).mulI addr value s)

end Sys2Proof.Machine
end

