-- ==== Sys2Proof/Machine/Dispatch.lean ====
section
/-! DEFINITION. One arm for each row of the opcode table (40_dispatch.md R120). -/

namespace Sys2Proof.Machine

/-- The meaning of a command in a state. -/
def exec (i : Instr) (s : State) : Host.Outcome State Fault Refusal :=
  match i with
  | .select tag => Sys2Proof.Machine.execSelect tag s
  | .reqv addr => Sys2Proof.Machine.execReqv addr s
  | .reqi addr => Sys2Proof.Machine.execReqi addr s
  | .reqt addr => Sys2Proof.Machine.execReqt addr s
  | .reqf addr => Sys2Proof.Machine.execReqf addr s
  | .reqc addr => Sys2Proof.Machine.execReqc addr s
  | .setv addr value => Sys2Proof.Machine.execSetv addr value s
  | .seti addr value => Sys2Proof.Machine.execSeti addr value s
  | .modelow addr => Sys2Proof.Machine.execModelow addr s
  | .modehigh addr => Sys2Proof.Machine.execModehigh addr s
  | .modeauto addr => Sys2Proof.Machine.execModeauto addr s
  | .enable addr => Sys2Proof.Machine.execEnable addr s
  | .disable addr => Sys2Proof.Machine.execDisable addr s
  | .parse => Sys2Proof.Machine.execParse s

end Sys2Proof.Machine
end

