-- ==== Sys2Proof/Machine/Port.lean ====
section
/-! DEFINITION. The host port: one transaction executed by the block (20_memory.md R51, R57). -/

namespace Sys2Proof.Machine

/-- `CMD(w)`: the command of the word, ILLEGAL for a reserved operation code, the model's refusal for a nonzero reserved
field (40_dispatch.md R120, R125; 30_encoding.md R73). -/
def runCommand (w : CmdWord) (s : State) : Host.Outcome State Fault Refusal :=
  match decode w with
  | .instr i => exec i s
  | .illegal _ => .next (illegalCommand s)
  | .reserved f => .refused (.reservedField f)

/-- One transaction of the host (20_memory.md R51). -/
def runTransaction (t : Transaction) (s : State) : Host.Outcome State Fault Refusal :=
  match t with
  | .cmd w => runCommand w s
  | .rxload f => .next (rxLoad f s)
  | .read r => .next (readToHost r s)

/-- The next transaction is taken off the port and runs whole; with none presented nothing changes
(20_memory.md R57, R58; log 5). -/
def runPort (s : State) : Host.Outcome State Fault Refusal :=
  match s.pending with
  | [] => .next s
  | t :: rest => runTransaction t { s with pending := rest }

/-- The command word of a table row's bits presented as the next transaction, before those already presented. -/
def presentWord (s : State) (nbits w : Nat) : State := { s with pending := .cmd (tableWord nbits w) :: s.pending }

end Sys2Proof.Machine
end

