-- ==== Sys2Proof/Machine/Step.lean ====
section
/-! DEFINITION. One step of the machine: one transaction of the host. -/

namespace Sys2Proof.Machine

/-- One step: the oldest transaction presented runs (20_memory.md R57). -/
def step (s : State) : Host.Outcome State Fault Refusal := runPort s

/-- `s` with the word of a table row presented where the next step takes its transaction; nothing else changes. The
block fetches nothing (10_state.md R21): a program is the host's sequence of CMD transactions (log 5). -/
def State.withFetchWord (s : State) (nbits w : Nat) : State := presentWord s nbits w

end Sys2Proof.Machine
end

