-- ==== Sys2Proof/Safety.lean ====
section
/-! DEFINITION. What a safe run is: the invariant of the registers, and the rules a host keeps so that no step stops. -/

namespace Sys2Proof.Machine

/-- The value register of a measurement field. -/
def Measurement.value (m : Measurement) : MeasField → Word
  | .volt => m.v
  | .curr => m.i
  | .temp => m.t
  | .flags => m.s
  | .cap => m.c

/-- The invariant of the measurement set (10_state.md R30, R28): nothing is present and every register is zero, or the
address and exactly one value field are present, every other value register is zero and bit 7 of the address is 0. -/
def Measurement.WellShaped (m : Measurement) : Prop :=
  m = Measurement.cleared ∨
    ∃ x : MeasField, m.p = pAddr ||| pField x ∧ m.addr.getLsbD 7 = false ∧ ∀ y : MeasField, y ≠ x → m.value y = 0

/-- `STATUS` holds one of the nine codes; every other value is never written (10_state.md R31). -/
def legalStatus (b : Byte) : Bool :=
  [stIdle, stFrame, stUnsupported, stSelectOk, stSelectRejected, stOk, stUnknownCmd, stInvalidFrame, stIllegalOp].contains b

/-- The header bytes of a generated frame of protocol `p` (30_encoding.md R85, R86). -/
def headerOf (c : Cfg) (p : Protocol) (d : Payload) : Prop :=
  match p with
  | .A => d.d0 = Config.preambleA ∧ d.d2 = 0x00 ∧ d.d3 = 0x00
  | .B => d.d0 = c.mark0B ∧ d.d1 = c.mark1B

/-- A frame some encoder command of protocol `p` can have built: length 8, the extended flag set, the identifier a
template outside the address field, the header of `p` (30_encoding.md R77, R78, R81, R85, R86). -/
def GeneratedBy (c : Cfg) (p : Protocol) (f : Frame) : Prop :=
  f.len = 0x08 ∧ f.id.getLsbD 31 = true ∧
    (f.id &&& ~~~addrField p = (tableOf c p).idRead ∨ f.id &&& ~~~addrField p = (tableOf c p).idCtrl) ∧
    headerOf c p f.data

/-- `TXF` is the reset frame, not marked valid, or a generated frame (10_state.md R24, R25). -/
def State.TxfOk (s : State) : Prop :=
  (s.txf = Frame.zero ∧ s.txv = false) ∨ ∃ p : Protocol, GeneratedBy s.cfg p s.txf

/-- The invariant of a run: a checked configuration, a legal `STATUS`, well-shaped measurement registers, and a `TXF`
that is the reset frame or a generated one. -/
def State.Inv (s : State) : Prop :=
  s.cfg.valid = true ∧ legalStatus s.status = true ∧ s.meas.WellShaped ∧ s.TxfOk

/-- A transaction that no step stops on when `RXW` is `rxw`: a command word is a row's or has a reserved operation code
(30_encoding.md R73, R100), and a PARSE comes after an RXLOAD (70_reset_and_hazards.md R253). -/
def hostReady (t : Transaction) (rxw : Bool) : Bool :=
  match t with
  | .cmd w => (wellFormedWord w || !usedOpcode (opOf w)) && (opOf w != 0x0E || rxw)
  | .rxload _ => true
  | .read _ => true

/-- `RXW` after a transaction: set by every RXLOAD, never cleared (10_state.md R27). -/
def rxwAfter (t : Transaction) (rxw : Bool) : Bool :=
  match t with
  | .cmd _ => rxw
  | .rxload _ => true
  | .read _ => rxw

/-- The host keeps its rules over a whole sequence of transactions. -/
def hostKeepsRules : List Transaction → Bool → Bool
  | [], _ => true
  | t :: rest, rxw => hostReady t rxw && hostKeepsRules rest (rxwAfter t rxw)

end Sys2Proof.Machine
end

