-- ==== Sys2Proof/Certificates/Slice0/Obligations.lean ====
section
/-! DEFINITION. The statements about the block, written from the numbered rules of spec/. What a statement expects is
spelled out here from the rule's own text (literal masks, byte positions and codes, exact rationals), apart from the
model's functions. -/

namespace Sys2Proof.Expect

open Sys2Proof Sys2Proof.Machine

/-- The identifier of a generated frame: the template outside the address field, `ADDR[6:0]` inside it
(30_encoding.md R80, R81). -/
def ident (p : Protocol) (template : Word) (addr : Byte) : Word :=
  match p with
  | .A => (template &&& 0xFFE03FFF#32) ||| ((addr &&& 0x7F#8).setWidth 32 <<< 14)
  | .B => (template &&& 0xFFFC07FF#32) ||| ((addr &&& 0x7F#8).setWidth 32 <<< 11)

/-- A control frame of the selected protocol: control template, header, big-endian body (30_encoding.md R85 to R88).
`a` is protocol A's 8-bit code, `b` protocol B's 16-bit code. -/
def control (s : State) (a : Byte) (b : Half) (body : Word) (addr : Byte) : Frame :=
  match s.proto with
  | .A => ⟨ident .A s.cfg.tabA.idCtrl addr, 8,
      ⟨0x12, a, 0, 0, (body >>> 24).setWidth 8, (body >>> 16).setWidth 8, (body >>> 8).setWidth 8, body.setWidth 8⟩⟩
  | .B => ⟨ident .B s.cfg.tabB.idCtrl addr, 8,
      ⟨s.cfg.mark0B, s.cfg.mark1B, (b >>> 8).setWidth 8, b.setWidth 8,
        (body >>> 24).setWidth 8, (body >>> 16).setWidth 8, (body >>> 8).setWidth 8, body.setWidth 8⟩⟩

/-- A request frame of the selected protocol: read template, header, zero body (41_encoder_requests.md R140). -/
def request (s : State) (a : Byte) (b : Half) (addr : Byte) : Frame :=
  match s.proto with
  | .A => ⟨ident .A s.cfg.tabA.idRead addr, 8, ⟨0x12, a, 0, 0, 0, 0, 0, 0⟩⟩
  | .B => ⟨ident .B s.cfg.tabB.idRead addr, 8,
      ⟨s.cfg.mark0B, s.cfg.mark1B, (b >>> 8).setWidth 8, b.setWidth 8, 0, 0, 0, 0⟩⟩

/-- `s` after a command that sent the frame `f` and did nothing else (30_encoding.md R88). -/
def sent (s : State) (f : Frame) : State := { s with txf := f, txv := true, status := 0x01 }

/-- The constants of the selected protocol. -/
def table (s : State) : ProtoTable :=
  match s.proto with
  | .A => s.cfg.tabA
  | .B => s.cfg.tabB

/-- The frame in `RXF` belongs to the selected protocol (43_decoder.md R192). -/
def accepted (s : State) : Prop := s.rxf.id &&& (table s).mask = (table s).expect ∧ s.rxf.len = 8

/-- `RXF` carries the command code `a` under protocol A, `b` under protocol B (30_encoding.md R89). -/
def carries (s : State) (a : Byte) (b : Half) : Prop :=
  match s.proto with
  | .A => s.rxf.data.d1 = a
  | .B => s.rxf.data.d2.setWidth 16 <<< 8 ||| s.rxf.data.d3.setWidth 16 = b

/-- What an accepted frame's PARSE leaves in `RXF`: bytes 2 and 3 zero under A (43_decoder.md R196). -/
def cleaned (s : State) : Frame :=
  match s.proto with
  | .A => { s.rxf with data := { s.rxf.data with d2 := 0, d3 := 0 } }
  | .B => s.rxf

/-- The address of the frame in `RXF`: `id[20:14]` under A, `id[17:11]` under B (43_decoder.md R193). -/
def address (s : State) : Byte :=
  match s.proto with
  | .A => ((s.rxf.id >>> 14) &&& 0x7F#32).setWidth 8
  | .B => ((s.rxf.id >>> 11) &&& 0x7F#32).setWidth 8

/-- The big-endian 32-bit value of a payload's bytes 4 to 7 (43_decoder.md R197). -/
def raw (d : Payload) : Word :=
  d.d4.setWidth 32 <<< 24 ||| d.d5.setWidth 32 <<< 16 ||| d.d6.setWidth 32 <<< 8 ||| d.d7.setWidth 32

/-- `s` after a PARSE that ended OK with the measurement `m` (43_decoder.md R208). -/
def measured (s : State) (m : Measurement) : State := { s with status := 0x05, rxf := cleaned s, meas := m }

/-- A measurement with only the address and the presence set written. -/
def present (s : State) (p : Byte) : Measurement := { Measurement.cleared with addr := address s, p := p }

/-- `data` with bytes 4 to 7 replaced by the big-endian `r`. -/
def withRaw (d : Payload) (r : Word) : Payload :=
  { d with d4 := (r >>> 24).setWidth 8, d5 := (r >>> 16).setWidth 8, d6 := (r >>> 8).setWidth 8, d7 := r.setWidth 8 }

/-- `real(v)` of a finite binary32 pattern, as an exact rational (00_scope.md R13). -/
def real (v : Word) : ℚ :=
  let e : Nat := (v >>> 23).toNat % 256
  let f : Nat := v.toNat % 2 ^ 23
  (if v.getLsbD 31 then -1 else 1) *
    if e = 0 then (f : ℚ) * (2 : ℚ) ^ (-149 : ℤ) else ((2 ^ 23 + f : Nat) : ℚ) * (2 : ℚ) ^ ((e : ℤ) - 150)

/-- `isFinite(v)` (00_scope.md R13). -/
def finite (v : Word) : Prop := (v >>> 23).toNat % 256 ≠ 255

/-- `trunc(x)` (00_scope.md R11). -/
def trunc (x : ℚ) : ℤ := if 0 ≤ x then ⌊x⌋ else ⌈x⌉

/-- `ulp32(x)` for `x >= 0`, the binary32 unit in the last place at `x` (42_encoder_control.md R165). -/
def ulp32 (x : ℚ) : ℚ := (2 : ℚ) ^ max (-149) (Int.log 2 x - 23)

/-- The rational a magnitude pair stands for. -/
def ratio (x : Ratio) : ℚ := (x.num : ℚ) / (x.den : ℚ)

/-- The rational a dyadic magnitude stands for. -/
def dyad (d : Dyad) : ℚ := (d.sig : ℚ) * (2 : ℚ) ^ d.exp

/-- A magnitude the format can hold. -/
def representable (fmt : FloatFormat) (d : Dyad) : Prop :=
  d.sig < 2 ^ fmt.prec ∧ fmt.minExp ≤ d.exp ∧ d.exp ≤ fmt.maxExp

/-- `rawF(r)` (43_decoder.md R201). -/
def rawF (signed : Bool) (r : Word) : ℚ := if signed then (r.toInt : ℚ) else (r.toNat : ℚ)

/-- `w` is a finite binary32 nearest to `q`, its last bit 0 where another is as near: `f32(q)` up to the sign of a zero
(00_scope.md R13). -/
def nearest32 (w : Word) (q : ℚ) : Prop :=
  finite w ∧ ∀ w' : Word, finite w' →
    |real w - q| ≤ |real w' - q| ∧ (|real w - q| = |real w' - q| → real w ≠ real w' → w.getLsbD 0 = false)

/-- What a command may depend on: `PROTO`, `RXF` with its written mark, the configuration, and the number of the next
free value (10_state.md R32). -/
def sameInputs (s t : State) : Prop :=
  s.proto = t.proto ∧ s.rxf = t.rxf ∧ s.rxw = t.rxw ∧ s.cfg = t.cfg ∧ s.draws = t.draws

end Sys2Proof.Expect

open Sys2Proof Sys2Proof.Machine

/-! ## Command words -/

/-- Decoding the word of any command gives the command back, with every operand (R70, R71). -/
def Obligations.DecodeOfEncodeIsTheCommand : Prop := ∀ i : Instr, decode (encode i) = .instr i

/-- Where a word decodes to a command, the word is that command's encoding: no bit is dropped (R70, R73). -/
def Obligations.EncodeOfDecodeIsTheWord : Prop := ∀ (w : CmdWord) (i : Instr), decode w = .instr i → encode i = w

/-- The decoder reads a command exactly from the words of the opcode table's rows of match and mask, and ILLEGAL exactly
from operation codes 0x00 and 0x0F to 0xFF. -/
def Obligations.DecoderAcceptsExactlyTheTableRows : Prop :=
  ∀ w : CmdWord,
    ((∃ i, decode w = .instr i) ↔ wellFormedWord w = true) ∧
      ((∃ op, decode w = .illegal op) ↔ (w.toNat % 256 = 0 ∨ 0x0F ≤ w.toNat % 256))

/-- The words R76 writes out decode to the commands it names. -/
def Obligations.WorkedEncodingsDecode : Prop :=
  decode 0x0000000000000001 = .instr (.select 0x00) ∧ decode 0x0000000000010001 = .instr (.select 0x01) ∧
    decode 0x0000000000001A02 = .instr (.reqv 0x1A) ∧ decode 0x4242000000000507 = .instr (.setv 5 0x42420000) ∧
    decode 0x4124000000000508 = .instr (.seti 5 0x41240000) ∧ decode 0x000000000000030B = .instr (.modeauto 3) ∧
    decode 0x000000000000030C = .instr (.enable 3) ∧ decode 0x000000000000000E = .instr .parse

/-! ## Steps and transactions

That the host's transactions stand in the list `pending` and that READ answers into `reply` is the model's choice
(log 5, log 6); what each transaction does to the registers is the spec's. -/

/-- A CMD whose word decodes to a command runs that command, with the transaction taken off the port (the port's list
is the model's, log 5). -/
def Obligations.StepRunsTheDecodedCommand : Prop :=
  ∀ (s : State) (w : CmdWord) (rest : List Transaction) (i : Instr),
    s.pending = .cmd w :: rest → decode w = .instr i → step s = exec i { s with pending := rest }

/-- A reserved operation code is executed as ILLEGAL: `STATUS <- 0x08`, nothing else changes, whatever the other fields
hold (R100, R125). -/
def Obligations.ReservedOpcodeOnlyWritesIllegalOp : Prop :=
  ∀ (s : State) (w : CmdWord) (rest : List Transaction),
    s.pending = .cmd w :: rest → (w.toNat % 256 = 0 ∨ 0x0F ≤ w.toNat % 256) →
      step s = .next { s with pending := rest, status := 0x08 }

/-- A command word is refused exactly when its operation code is used and a field that operation does not use is not
zero (R71, R73). -/
def Obligations.NonzeroReservedFieldIsRefused : Prop :=
  ∀ (s : State) (w : CmdWord) (rest : List Transaction), s.pending = .cmd w :: rest →
    let op := w.extractLsb' 0 8
    ((∃ f, step s = .refused (.reservedField f)) ↔
      (0x01#8 ≤ op ∧ op ≤ 0x0E#8) ∧
        (w.extractLsb' 24 8 ≠ 0#8 ∨ (op ≠ 0x01#8 ∧ w.extractLsb' 16 8 ≠ 0#8) ∨
          ((op = 0x01#8 ∨ op = 0x0E#8) ∧ w.extractLsb' 8 8 ≠ 0#8) ∨
          (op ≠ 0x07#8 ∧ op ≠ 0x08#8 ∧ w.extractLsb' 32 32 ≠ 0#32)))

/-- READ changes no register and two READs in a row return the same; two equal RXLOADs leave what one leaves; the only
command that writes `RXF` is PARSE under A, which only clears bytes 2 and 3 (R53). -/
def Obligations.TransactionSideEffects : Prop :=
  (∀ (s : State) (r : RegName) (rest : List Transaction), s.pending = .read r :: .read r :: rest →
      ∃ v, step s = .next { s with pending := .read r :: rest, reply := some v } ∧
        step { s with pending := .read r :: rest, reply := some v } = .next { s with pending := rest, reply := some v }) ∧
    (∀ (s : State) (f : Frame) (rest : List Transaction), s.pending = .rxload f :: .rxload f :: rest →
      ∃ t, step s = .next t ∧ step t = .next { s with pending := rest, rxf := f, rxw := true } ∧
        step { s with pending := .rxload f :: rest } = .next { s with pending := rest, rxf := f, rxw := true }) ∧
    (∀ (i : Instr) (s t : State), exec i s = .next t → t.rxf ≠ s.rxf →
      i = .parse ∧ s.proto = .A ∧ Expect.accepted s ∧
        t.rxf = { s.rxf with data := { s.rxf.data with d2 := 0, d3 := 0 } })

/-- READ returns the register it names, whole; `RXF` once it has been loaded (R51, R52). -/
def Obligations.ReadReturnsTheNamedRegister : Prop :=
  ∀ (s : State) (rest : List Transaction) (r : RegName) (v : Reply),
    (r, v) ∈ [(RegName.proto, Reply.byte (match s.proto with | .A => 0x00 | .B => 0x01)), (.txf, .frame s.txf),
        (.txv, .bit s.txv), (.measAddr, .byte s.meas.addr), (.measV, .word s.meas.v), (.measI, .word s.meas.i),
        (.measT, .word s.meas.t), (.measS, .word s.meas.s), (.measC, .word s.meas.c), (.measP, .byte s.meas.p),
        (.status, .byte s.status)] ∨ (s.rxw = true ∧ r = .rxf ∧ v = .frame s.rxf) →
      s.pending = .read r :: rest → step s = .next { s with pending := rest, reply := some v }

/-- `RXW` is 0 at reset, set by every RXLOAD (which writes the whole frame), never cleared, and a PARSE while it is 0
faults (R27). -/
def Obligations.WrittenMarkOfRxf : Prop :=
  State.reset.rxw = false ∧
    (∀ (s : State) (f : Frame) (rest : List Transaction), s.pending = .rxload f :: rest →
      step s = .next { s with pending := rest, rxf := f, rxw := true }) ∧
    (∀ s t : State, step s = .next t → s.rxw = true → t.rxw = true) ∧
    (∀ s : State, s.rxw = false → exec .parse s = .fault .unwrittenRxf)

/-- Transactions are taken one at a time in the order presented: a step takes the oldest and leaves the others
(R57; the list is the model's, log 5). -/
def Obligations.StepTakesTheOldestTransaction : Prop :=
  ∀ (s t : State) (x : Transaction) (rest : List Transaction),
    s.pending = x :: rest → step s = .next t → t.pending = rest

/-- The configuration is fixed for a run: no step changes it (R22, R252). -/
def Obligations.StepKeepsTheConfiguration : Prop := ∀ s t : State, step s = .next t → t.cfg = s.cfg

/-- A step stops exactly where the host broke a rule: a nonzero reserved field, or a PARSE before any RXLOAD (R243). -/
def Obligations.StepStopsOnlyOnABrokenHostRule : Prop :=
  ∀ (s : State) (x : Transaction) (rest : List Transaction), s.pending = x :: rest →
    ((∃ t, step s = .next t) ↔ hostReady x s.rxw = true)

/-- From any state at all, a host that keeps its rules (well-formed or reserved-code words, no PARSE before an RXLOAD)
sees every transaction it presented completed. -/
def Obligations.HostThatKeepsItsRulesIsNeverStopped : Prop :=
  ∀ s : State, hostKeepsRules s.pending s.rxw = true →
    ∃ t : State, Host.Core.run Sys2Proof.core s.pending.length s = .next t ∧ t.pending = []

/-- While the host keeps its rules and something is presented, a step completes and the host's rules still hold of what is
left, with `RXW` as that step leaves it (R230, R243, R253). -/
def Obligations.StepKeepsTheHostRules : Prop :=
  ∀ s : State, hostKeepsRules s.pending s.rxw = true → s.pending ≠ [] →
    ∃ t : State, step s = .next t ∧ hostKeepsRules t.pending t.rxw = true

/-! ## Reset and configuration -/

/-- What reset leaves in every register the spec gives a value, `PROTO` holding the tag `PROTO_INIT` (R250). `RXF` is
unspecified there and nothing is said of it. -/
def Obligations.ResetLeavesTheSpecValues : Prop :=
  let s := State.reset
  s.proto.tag = Config.chosen.val.protoInit ∧ s.txf = ⟨0, 0, ⟨0, 0, 0, 0, 0, 0, 0, 0⟩⟩ ∧ s.txv = false ∧ s.rxw = false ∧
    s.meas.addr = 0 ∧ s.meas.v = 0 ∧ s.meas.i = 0 ∧ s.meas.t = 0 ∧ s.meas.s = 0 ∧ s.meas.c = 0 ∧ s.meas.p = 0 ∧
    s.status = 0x00

/-- A configuration is accepted exactly when it passes its checks; one whose `PROTO_INIT` is no recognized tag is
refused, and one that is accepted starts with `PROTO` holding that tag (R251). -/
def Obligations.UnrecognizedInitialProtocolIsRefused : Prop :=
  (∀ c : Cfg, c.protoInit ≠ 0x00 → c.protoInit ≠ 0x01 → State.configure c = .error .badConfiguration) ∧
    ∀ (c : Cfg) (s : State), State.configure c = .ok s →
      (c.protoInit = 0x00 ∧ s.proto = .A ∨ c.protoInit = 0x01 ∧ s.proto = .B) ∧ s.cfg = c

/-- `P_REF` passes K1 to K9 and meets the source's examples with `X_PROTO = A` (R99). -/
def Obligations.ReferenceInstanceMeetsTheChecks : Prop :=
  Config.pRef.valid = true ∧ Config.pRef.meetsR97 = true ∧ Config.pRef.tabA.scalesAsX Config.pRef.tabB = true ∧
    (Config.pRef.tabA.mulI, Config.pRef.tabA.divI) = (100, 1000) ∧ Config.pRef.autoSupA = false

/-- The invariant holds right after reset. -/
def Obligations.ResetMeetsTheRunInvariant : Prop := State.reset.Inv

/-- Every step keeps the invariant: a checked configuration, a legal `STATUS` code, measurement registers that hold
nothing or the address and exactly one field, and a `TXF` that is the reset frame or a generated one
(R24, R25, R28, R30, R31, R77, R78). -/
def Obligations.StepKeepsTheRunInvariant : Prop := ∀ s t : State, s.Inv → step s = .next t → t.Inv

/-! ## The dispatcher -/

/-- SELECT: tags 0x00 and 0x01 select A and B and report SELECT_OK; every other tag reports SELECT_REJECTED and leaves
`PROTO`; nothing else changes (R121). -/
def Obligations.SelectWritesProtoOrRejects : Prop :=
  ∀ (tag : Byte) (s : State),
    exec (.select tag) s =
      .next (if tag.toNat = 0 then { s with proto := .A, status := 0x03 }
        else if tag.toNat = 1 then { s with proto := .B, status := 0x03 }
        else { s with status := 0x04 })

/-- No command other than SELECT writes `PROTO` (R123). -/
def Obligations.OnlySelectWritesProto : Prop :=
  ∀ (i : Instr) (s t : State), exec i s = .next t → (∀ tag, i ≠ .select tag) → t.proto = s.proto

/-- `TXV` is set by every command that sends a frame, which always writes a frame of length 8, and cleared by MODEAUTO
when it returns unsupported; SELECT, PARSE, an unsupported MODEAUTO and a reserved operation code leave `TXF`, and all
of these but MODEAUTO leave `TXV` (R24, R25). -/
def Obligations.WritersOfTxfAndTxv : Prop :=
  (∀ (i : Instr) (s t : State), exec i s = .next t →
    match i with
    | .select _ | .parse => t.txf = s.txf ∧ t.txv = s.txv
    | .modeauto _ => (t.txv = true ∧ t.txf.len = 8) ∨ (t.txv = false ∧ t.txf = s.txf ∧ t.status = 0x02)
    | _ => t.txv = true ∧ t.txf.len = 8) ∧
    ∀ (s t : State) (w : CmdWord) (rest : List Transaction), s.pending = .cmd w :: rest →
      (w.toNat % 256 = 0 ∨ 0x0F ≤ w.toNat % 256) → step s = .next t → t.txf = s.txf ∧ t.txv = s.txv

/-- An encoder command writes `TXF`, `TXV` and `STATUS` and nothing else of the block (R88, R160); `draws` is the model's
counter of free values. -/
def Obligations.EncoderCommandsTouchOnlyTheirRegisters : Prop :=
  ∀ (i : Instr) (s t : State), exec i s = .next t → (∀ tag, i ≠ .select tag) → i ≠ .parse →
    t = { s with txf := t.txf, txv := t.txv, status := t.status, draws := t.draws }

/-- A command's outcome depends on nothing an earlier command left but `PROTO` and `RXF`: two states that agree on these
(and on the configuration and the next free value) give the same outcome code, the same frame where one is sent and the
same measurement (R32, R209). That the frames of an out-of-range SETV or SETI agree too is the model's choice (log 4):
R162 leaves the body arbitrary, and the model numbers it by `draws`, on which the two states agree. -/
def Obligations.OutcomeDependsOnlyOnProtoAndRxf : Prop :=
  ∀ (i : Instr) (s₁ s₂ t₁ : State), Expect.sameInputs s₁ s₂ → exec i s₁ = .next t₁ →
    ∃ t₂ : State, exec i s₂ = .next t₂ ∧ Expect.sameInputs t₁ t₂ ∧ t₁.status = t₂.status ∧
      (t₁.status = 0x01 → t₁.txf = t₂.txf ∧ t₁.txv = t₂.txv) ∧ (i = .parse → t₁.meas = t₂.meas)

/-! ## The encoder -/

/-- The five requests under either protocol: read template with the address in bits 20..14 (A) or 17..11 (B), length 8,
the header with the code of the measurement, zeros; `TXV <- 1`, `STATUS <- FRAME`, nothing else changes (R140 to R145). -/
def Obligations.RequestFrames : Prop :=
  ∀ (s : State) (addr : Byte),
    ∀ q ∈ [(Instr.reqv addr, 0x62#8, s.cfg.codesB.volt), (.reqi addr, s.cfg.codesA.curr, s.cfg.codesB.curr),
        (.reqt addr, s.cfg.codesA.temp, s.cfg.codesB.temp), (.reqf addr, s.cfg.codesA.flags, s.cfg.codesB.flags),
        (.reqc addr, s.cfg.codesA.cap, s.cfg.codesB.cap)],
      exec q.1 s = .next (Expect.sent s (Expect.request s q.2.1 q.2.2 addr))

/-- SETV and SETI always complete: a control frame with the scaled value as its body where that is in range, and where
it is out of range the same frame with some body, the only other change being the model's counter of free values
(R162, R163, R164, R232; the counter is log 4, the corner that rounds to -1 log 20). -/
def Obligations.SetpointsAlwaysSendAControlFrame : Prop :=
  ∀ (s : State) (addr : Byte) (v : Word),
    (∃ body d, exec (.setv addr v) s =
        .next { Expect.sent s (Expect.control s s.cfg.codesA.setv s.cfg.codesB.setv body addr) with draws := d } ∧
      ∀ b, scaledBody s.cfg.scaleArith v (Expect.table s).mulV = some b → body = b ∧ d = s.draws) ∧
    (∃ body d, exec (.seti addr v) s =
        .next { Expect.sent s (Expect.control s s.cfg.codesA.seti s.cfg.codesB.seti body addr) with draws := d } ∧
      ∀ b, scaledBody s.cfg.scaleArith v (Expect.table s).mulI = some b → body = b ∧ d = s.draws)

/-- The scaled value under EXACT: in range exactly when `v` is finite and `0 <= trunc(real(v) * M) <= 2^31 - 1`, and it
is that integer (R161, R162). -/
def Obligations.ExactScalingTruncatesTheProduct : Prop :=
  ∀ (v : Word) (m : Nat) (b : Word),
    scaledBody .exact v m = some b ↔
      Expect.finite v ∧ 0 ≤ Expect.trunc (Expect.real v * m) ∧ Expect.trunc (Expect.real v * m) ≤ 2 ^ 31 - 1 ∧
        (b.toNat : ℤ) = Expect.trunc (Expect.real v * m)

/-- The scaled value under BINARY32 and BINARY64: in range exactly when `v` and the rounded product are finite and the
truncated rounded product lies in `0 .. 2^31 - 1`, and it is that integer. `x` is the magnitude of the exact product
(R161, R162). The model's choices it rests on: IEEE 754's rounding (log 12); the formula as it stands for multipliers of
2^24 or more, where R161 supposes `M < 2^24` (log 18); a negative product that rounds to -1 is out of range (log 20). -/
def Obligations.RoundedScalingTruncatesTheRoundedProduct : Prop :=
  ∀ q ∈ [(ScaleArith.binary32, Machine.binary32), (.binary64, Machine.binary64)],
    ∀ (v : Word) (m : Nat) (b : Word) (x : Ratio), 0 < x.den → Expect.ratio x = |Expect.real v * m| →
      (scaledBody q.1 v m = some b ↔
        Expect.finite v ∧ ∃ d : Dyad, q.2.round x = some d ∧
          let s : ℤ := Expect.trunc (if Expect.real v < 0 then -Expect.dyad d else Expect.dyad d)
          0 ≤ s ∧ s ≤ 2 ^ 31 - 1 ∧ (b.toNat : ℤ) = s)

/-- BINARY64 gives the same scaled value as EXACT for every multiplier below 2^29 (R161). -/
def Obligations.Binary64ScalingAgreesWithExact : Prop :=
  ∀ (v : Word) (m : Nat), m < 2 ^ 29 → scaledBody .binary64 v m = scaledBody .exact v m

/-- The body of an in-range non-negative set-point recovers `v` within one step of the multiplier, under EXACT, and
under BINARY64 for multipliers below 2^29 (R165). -/
def Obligations.SetpointRoundTripExact : Prop :=
  ∀ (arith : ScaleArith) (v : Word) (m : Nat) (b : Word), 0 < m → 0 ≤ Expect.real v →
    (arith = .exact ∨ arith = .binary64 ∧ m < 2 ^ 29) → scaledBody arith v m = some b →
      0 ≤ Expect.real v - (b.toNat : ℚ) / m ∧ Expect.real v - (b.toNat : ℚ) / m < 1 / (m : ℚ)

/-- The same under BINARY32: the truncation error below one step and the rounding error of at most half a unit in the
last place of the product (R165). The model's choices it rests on: IEEE 754's rounding (log 12), and one rounding of the
exact product for multipliers of 2^24 or more, where R161 supposes `M < 2^24` (log 18). -/
def Obligations.SetpointRoundTripBinary32 : Prop :=
  ∀ (v : Word) (m : Nat) (b : Word), 0 < m → 0 ≤ Expect.real v → scaledBody .binary32 v m = some b →
    -Expect.ulp32 (Expect.real v * m) / (2 * m) ≤ Expect.real v - (b.toNat : ℚ) / m ∧
      Expect.real v - (b.toNat : ℚ) / m < (1 + Expect.ulp32 (Expect.real v * m) / 2) / m

/-- MODELOW and MODEHIGH under both protocols: a control frame with the 16-bit mode code in bytes 6 and 7 and zeros in
bytes 4 and 5 (R170, R171, R172). -/
def Obligations.ModeLowAndHighFrames : Prop :=
  ∀ (s : State) (addr : Byte),
    exec (.modelow addr) s = .next (Expect.sent s
      (Expect.control s s.cfg.codesA.mode s.cfg.codesB.mode ((Expect.table s).modeLow.setWidth 32) addr)) ∧
    exec (.modehigh addr) s = .next (Expect.sent s
      (Expect.control s s.cfg.codesA.mode s.cfg.codesB.mode ((Expect.table s).modeHigh.setWidth 32) addr))

/-- MODEAUTO: under the protocol that has auto mode a control frame with a zero body, under the other UNSUPPORTED, with
`TXV <- 0`, `TXF` and all else unchanged (R173, R174). -/
def Obligations.ModeAutoFrameOrUnsupported : Prop :=
  ∀ (s : State) (addr : Byte),
    ((s.proto = .A ∧ s.cfg.autoSupA = true ∨ s.proto = .B ∧ s.cfg.autoSupA = false) →
      exec (.modeauto addr) s = .next (Expect.sent s
        (Expect.control s s.cfg.codesA.mode s.cfg.codesB.mode 0 addr))) ∧
    ((s.proto = .A ∧ s.cfg.autoSupA = false ∨ s.proto = .B ∧ s.cfg.autoSupA = true) →
      exec (.modeauto addr) s = .next { s with txv := false, status := 0x02 })

/-- MODEAUTO is the only command with the unsupported outcome, which it has under exactly one protocol; every other
encoder command sends a frame under both protocols (R175). -/
def Obligations.OnlyModeAutoCanBeUnsupported : Prop :=
  (∀ (i : Instr) (s t : State), exec i s = .next t → t.status = 0x02 → ∃ addr, i = .modeauto addr) ∧
    (∀ (addr : Byte) (s : State),
      ∃ t u : State, exec (.modeauto addr) { s with proto := .A } = .next t ∧
        exec (.modeauto addr) { s with proto := .B } = .next u ∧ (t.status = 0x02 ↔ u.status ≠ 0x02)) ∧
    ∀ (i : Instr) (s : State), (∀ tag, i ≠ .select tag) → i ≠ .parse → (∀ addr, i ≠ .modeauto addr) →
      ∃ t, exec i s = .next t ∧ t.status = 0x01 ∧ t.txv = true

/-- ENABLE and DISABLE under both protocols: a control frame with the sentinel in byte 7 and zeros in bytes 4 to 6
(R177, R178, R179). -/
def Obligations.PowerFrames : Prop :=
  ∀ (s : State) (addr : Byte),
    exec (.enable addr) s = .next (Expect.sent s
      (Expect.control s s.cfg.codesA.power s.cfg.codesB.power ((Expect.table s).pwrOn.setWidth 32) addr)) ∧
    exec (.disable addr) s = .next (Expect.sent s
      (Expect.control s s.cfg.codesA.power s.cfg.codesB.power ((Expect.table s).pwrOff.setWidth 32) addr))

/-- `ADDR[7]` is discarded: every command with an address operand behaves as with the address masked to 7 bits (R72). -/
def Obligations.AddressHighBitIsDiscarded : Prop :=
  ∀ (s : State) (addr : Byte) (v : Word),
    (∀ mk ∈ [Instr.reqv, .reqi, .reqt, .reqf, .reqc, .modelow, .modehigh, .modeauto, .enable, .disable],
      exec (mk addr) s = exec (mk (addr &&& 0x7F)) s) ∧
    ∀ mk ∈ [Instr.setv, .seti], exec (mk addr v) s = exec (mk (addr &&& 0x7F) v) s

/-- Address in, address out: for every template and address input, extraction after construction gives `ADDR[6:0]`, and
the template is untouched outside the address field (R81, R82). -/
def Obligations.AddressRoundTrip : Prop :=
  ∀ (p : Protocol) (template : Word) (addr : Byte),
    (idAddr p (buildId p template addr)).toNat = addr.toNat % 128 ∧
      buildId p template addr &&& ~~~addrField p = template &&& ~~~addrField p

/-! ## The decoder -/

/-- A frame that fails the identifier or the length test: INVALID_FRAME, every measurement register zero, `RXF` and all
else unchanged (R192, R191). -/
def Obligations.ParseOfAForeignFrameIsInvalid : Prop :=
  ∀ s : State, s.rxw = true → ¬ Expect.accepted s →
    exec .parse s = .next { s with status := 0x07, meas := ⟨0, 0, 0, 0, 0, 0, 0⟩ }

/-- An accepted frame whose code is no read code: UNKNOWN_CMD, every measurement register zero, `RXF` sanitized under A
(R195, R196). -/
def Obligations.ParseOfAnUnknownCode : Prop :=
  ∀ s : State, s.rxw = true → Expect.accepted s →
    (∀ q ∈ [(0x62#8, s.cfg.codesB.volt), (s.cfg.codesA.curr, s.cfg.codesB.curr), (s.cfg.codesA.temp, s.cfg.codesB.temp),
        (s.cfg.codesA.flags, s.cfg.codesB.flags), (s.cfg.codesA.cap, s.cfg.codesB.cap)], ¬ Expect.carries s q.1 q.2) →
      exec .parse s = .next { s with status := 0x06, meas := ⟨0, 0, 0, 0, 0, 0, 0⟩, rxf := Expect.cleaned s }

/-- A voltage reading: address, `MEAS_V` converted with `DIV_p_V`, presence 0x03, the other registers zero (R203, R208).
The voltage code is first in the order of classification, so no check of the table is needed. -/
def Obligations.ParseOfAVoltageFrame : Prop :=
  ∀ s : State, s.rxw = true → Expect.accepted s → Expect.carries s 0x62 s.cfg.codesB.volt →
    exec .parse s = .next (Expect.measured s { Expect.present s 0x03 with
      v := convFloat s.cfg.floatConv s.cfg.floatRawSigned (Expect.raw s.rxf.data) (Expect.table s).divV })

/-- A current reading: `MEAS_I` converted with `DIV_p_I`, presence 0x05 (R204, R208). -/
def Obligations.ParseOfACurrentFrame : Prop :=
  ∀ s : State, s.cfg.valid = true → s.rxw = true → Expect.accepted s →
    Expect.carries s s.cfg.codesA.curr s.cfg.codesB.curr →
    exec .parse s = .next (Expect.measured s { Expect.present s 0x05 with
      i := convFloat s.cfg.floatConv s.cfg.floatRawSigned (Expect.raw s.rxf.data) (Expect.table s).divI })

/-- A temperature reading: `MEAS_T` is the signed raw value divided by `DIV_p_T` truncating toward zero, which always
fits 32 bits; presence 0x09 (R205, R208). -/
def Obligations.ParseOfATemperatureFrame : Prop :=
  ∀ s : State, s.cfg.valid = true → s.rxw = true → Expect.accepted s →
    Expect.carries s s.cfg.codesA.temp s.cfg.codesB.temp →
    ∃ t : Word, exec .parse s = .next (Expect.measured s { Expect.present s 0x09 with t := t }) ∧
      t.toInt = Int.tdiv (Expect.raw s.rxf.data).toInt (Expect.table s).divT

/-- A status reading: `MEAS_S` is the raw value unchanged; presence 0x11 (R206, R208). -/
def Obligations.ParseOfAStatusFrame : Prop :=
  ∀ s : State, s.cfg.valid = true → s.rxw = true → Expect.accepted s →
    Expect.carries s s.cfg.codesA.flags s.cfg.codesB.flags →
    exec .parse s = .next (Expect.measured s { Expect.present s 0x11 with s := Expect.raw s.rxf.data })

/-- A current-capability reading: `MEAS_C` converted with `DIV_p_C`; presence 0x21 (R207, R208). -/
def Obligations.ParseOfACapabilityFrame : Prop :=
  ∀ s : State, s.cfg.valid = true → s.rxw = true → Expect.accepted s →
    Expect.carries s s.cfg.codesA.cap s.cfg.codesB.cap →
    exec .parse s = .next (Expect.measured s { Expect.present s 0x21 with
      c := convFloat s.cfg.floatConv s.cfg.floatRawSigned (Expect.raw s.rxf.data) (Expect.table s).divC })

/-- PARSE completes on every frame once `RXF` is written, and writes only `STATUS`, the measurement registers and, under
A on an accepted frame, bytes 2 and 3 of `RXF`; its code is 0x05, 0x06 or 0x07 (R190, R196, R210). -/
def Obligations.ParseCompletesAndTouchesOnlyItsRegisters : Prop :=
  ∀ s : State, s.rxw = true →
    ∃ t : State, exec .parse s = .next t ∧ t = { s with status := t.status, meas := t.meas, rxf := t.rxf } ∧
      (Expect.accepted s → t.rxf = Expect.cleaned s) ∧ (¬ Expect.accepted s → t.rxf = s.rxf) ∧
      (t.status = 0x05 ∨ t.status = 0x06 ∨ t.status = 0x07)

/-- After any PARSE the measurement registers are all zero with nothing present (UNKNOWN_CMD, INVALID_FRAME), or hold the
address and exactly one value field (OK) (R30). -/
def Obligations.ParseMeasuresAtMostOneField : Prop :=
  ∀ s t : State, exec .parse s = .next t →
    ((t.status = 0x06 ∨ t.status = 0x07) ∧ t.meas = ⟨0, 0, 0, 0, 0, 0, 0⟩) ∨
      (t.status = 0x05 ∧ t.meas.addr.toNat < 128 ∧
        ∃ q ∈ [(0x03#8, MeasField.volt), (0x05, .curr), (0x09, .temp), (0x11, .flags), (0x21, .cap)],
          t.meas.p = q.1 ∧ ∀ y, y ≠ q.2 → t.meas.value y = 0)

/-- The decoder reads no preamble and no marker: changing byte 0, and bytes 2 and 3 under A or byte 1 under B, of a
loaded frame changes neither the outcome nor the measurement (R198). -/
def Obligations.ParseIgnoresPreambleAndMarkers : Prop :=
  ∀ (s : State) (x y z : Byte), s.rxw = true →
    let other : State := { s with rxf := { s.rxf with data :=
      match s.proto with
      | .A => { s.rxf.data with d0 := x, d2 := y, d3 := z }
      | .B => { s.rxf.data with d0 := x, d1 := y } } }
    ∃ t u : State, exec .parse s = .next t ∧ exec .parse other = .next u ∧ t.status = u.status ∧ t.meas = u.meas

/-- A request frame whose body is filled with a raw value parses, under the protocol that built it, to that measurement
of that address (R146). -/
def Obligations.RequestFrameParsesBack : Prop :=
  ∀ (s t : State) (addr : Byte) (r : Word), s.cfg.valid = true →
    ∀ q ∈ [(Instr.reqv addr, MeasField.volt), (.reqi addr, .curr), (.reqt addr, .temp), (.reqf addr, .flags),
        (.reqc addr, .cap)],
      exec q.1 s = .next t →
        ∃ u : State,
          exec .parse { t with rxf := { t.txf with data := Expect.withRaw t.txf.data r }, rxw := true } = .next u ∧
            u.status = 0x05 ∧ u.meas.addr.toNat = addr.toNat % 128 ∧ (∀ y, y ≠ q.2 → u.meas.value y = 0) ∧
            match q.2 with
            | .volt => u.meas.p = 0x03 ∧
                u.meas.v = convFloat s.cfg.floatConv s.cfg.floatRawSigned r (Expect.table s).divV
            | .curr => u.meas.p = 0x05 ∧
                u.meas.i = convFloat s.cfg.floatConv s.cfg.floatRawSigned r (Expect.table s).divI
            | .temp => u.meas.p = 0x09 ∧ u.meas.t.toInt = Int.tdiv r.toInt (Expect.table s).divT
            | .flags => u.meas.p = 0x11 ∧ u.meas.s = r
            | .cap => u.meas.p = 0x21 ∧
                u.meas.c = convFloat s.cfg.floatConv s.cfg.floatRawSigned r (Expect.table s).divC

/-- A set-point frame that passes its own protocol's matcher parses as UNKNOWN_CMD, never as a measurement
(R195, K6). -/
def Obligations.SetpointFrameParsesAsUnknown : Prop :=
  ∀ (s t : State) (addr : Byte) (v : Word), s.cfg.valid = true →
    (Expect.table s).idCtrl &&& (Expect.table s).mask = (Expect.table s).expect →
    (exec (.setv addr v) s = .next t ∨ exec (.seti addr v) s = .next t) →
      ∃ u : State, exec .parse { t with rxf := t.txf, rxw := true } = .next u ∧ u.status = 0x06 ∧ u.meas.p = 0x00

/-! ## Floating point -/

/-- Rounding to a format gives a representable value nearest to `x`, and an even significand where another is as near
(R13; IEEE 754 is general knowledge in the spec, log 12). -/
def Obligations.RoundingIsToNearestTiesToEven : Prop :=
  ∀ fmt : FloatFormat, (fmt = binary32 ∨ fmt = binary64) → ∀ (x : Ratio) (d : Dyad), 0 < x.den → fmt.round x = some d →
    Expect.representable fmt d ∧
      ∀ d' : Dyad, Expect.representable fmt d' →
        |Expect.dyad d - Expect.ratio x| ≤ |Expect.dyad d' - Expect.ratio x| ∧
          (|Expect.dyad d - Expect.ratio x| = |Expect.dyad d' - Expect.ratio x| → Expect.dyad d ≠ Expect.dyad d' →
            d.sig % 2 = 0)

/-- Rounding overflows exactly from half a unit above the largest value of the format (log 12). -/
def Obligations.RoundingOverflowsFromHalfAUnitAbove : Prop :=
  ∀ fmt : FloatFormat, (fmt = binary32 ∨ fmt = binary64) → ∀ x : Ratio, 0 < x.den →
    (fmt.round x = none ↔ ((2 ^ (fmt.prec + 1) - 1 : ℕ) : ℚ) * (2 : ℚ) ^ (fmt.maxExp - 1) ≤ Expect.ratio x)

/-- Under SINGLE a float register holds the finite binary32 nearest to `rawF(r) / DIV`, its last bit 0 where another is
as near, for every raw value, divisor and signedness (R201, R202). The rounding is IEEE 754's, the model's choice
(log 12). -/
def Obligations.SingleConversionIsCorrectlyRounded : Prop :=
  ∀ (signed : Bool) (r : Word) (div : Nat), 0 < div →
    Expect.nearest32 (convFloat .single signed r div) (Expect.rawF signed r / div)

/-- F32_TWO_STEP rounds the raw value to binary32 and then the quotient; F64_THEN_F32 rounds the quotient to binary64 and
then to binary32. `x` is the magnitude of the exact quotient (R202). The model's choices it rests on: IEEE 754's rounding
(log 12), and the formula as it stands for divisors of 2^24 or more, where R202 supposes an exact divisor (log 18). -/
def Obligations.TwoRoundingConversionsRoundTwice : Prop :=
  ∀ (signed : Bool) (r : Word) (div : Nat), 0 < div →
    Expect.nearest32 (convFloat .f32TwoStep signed r div) (Expect.real (convFloat .single signed r 1) / div) ∧
      ∀ (x : Ratio), 0 < x.den → Expect.ratio x = |Expect.rawF signed r / div| →
        ∃ d : Dyad, Machine.binary64.round x = some d ∧
          Expect.nearest32 (convFloat .f64ThenF32 signed r div)
            (if Expect.rawF signed r < 0 then -Expect.dyad d else Expect.dyad d)

/-- SINGLE and F32_TWO_STEP agree wherever the raw value has at most 24 significant bits (R202). The model's choices it
rests on: IEEE 754's rounding (log 12), and the formula as it stands for divisors of 2^24 or more, where R202 supposes an
exact divisor (log 18). -/
def Obligations.TwoStepConversionAgreesOnShortRawValues : Prop :=
  ∀ (signed : Bool) (r : Word) (div a k : Nat), 0 < div → a < 2 ^ 24 → |Expect.rawF signed r| = ((a * 2 ^ k : Nat) : ℚ) →
    convFloat .f32TwoStep signed r div = convFloat .single signed r div
end

