-- ==== Sys2Proof/Laws/Decode.lean ====
section
/-! SUPPORT. The fields of a packed word, a word from its fields, and what the reserved-field check answers. -/

namespace Sys2Proof

/-- Each field of a packed word is the field that was packed, and `RSV` is zero (30_encoding.md R70). -/
theorem packWord_fields (v : Word) (t a op : Byte) :
    opOf (packWord v t a op) = op ∧ addrOf (packWord v t a op) = a ∧ tagOf (packWord v t a op) = t ∧
      rsvOf (packWord v t a op) = 0 ∧ valueOf (packWord v t a op) = v := by
  unfold opOf addrOf tagOf rsvOf valueOf packWord
  refine ⟨BitVec.extractLsb'_append_eq_right, ?_, ?_, ?_, ?_⟩
  all_goals
    ext i hi
    simp only [BitVec.getElem_extractLsb', BitVec.getLsbD_append]
    have : i < 32 := by omega
    interval_cases i <;> simp

/-- A word whose `RSV` is zero is its other fields packed. -/
theorem eq_packWord {w : CmdWord} (h : rsvOf w = 0) : w = packWord (valueOf w) (tagOf w) (addrOf w) (opOf w) := by
  have hr : ∀ i, 24 ≤ i → i < 32 → w.getLsbD i = false := by
    intro i h1 h2
    have := congrArg (fun x : Byte => x.getLsbD (i - 24)) h
    simp only [rsvOf, BitVec.getLsbD_extractLsb'] at this
    rw [show 24 + (i - 24) = i by omega] at this
    simpa [show i - 24 < 8 by omega] using this
  unfold packWord opOf addrOf tagOf valueOf
  ext i hi
  rw [← BitVec.getLsbD_eq_getElem, ← BitVec.getLsbD_eq_getElem]
  simp only [BitVec.getLsbD_append, BitVec.getLsbD_extractLsb']
  by_cases h0 : 24 ≤ i ∧ i < 32
  · rw [hr i h0.1 h0.2]
    obtain ⟨h1, h2⟩ := h0
    interval_cases i <;> simp
  · interval_cases i <;> first | (exfalso; omega) | simp

/-- The reserved-field check answers the instruction exactly when no listed field is nonzero. -/
theorem checkReserved_eq_instr {i j : Instr} {fs : List (ReservedField × Bool)} :
    checkReserved i fs = .instr j ↔ i = j ∧ ∀ f ∈ fs, f.2 = false := by
  induction fs with
  | nil => simp [checkReserved]
  | cons f rest ih =>
    obtain ⟨f, b⟩ := f
    cases b <;> simp [checkReserved, ih]

/-- The reserved-field check never answers ILLEGAL. -/
theorem checkReserved_ne_illegal (i : Instr) (fs : List (ReservedField × Bool)) (op : Byte) :
    checkReserved i fs ≠ .illegal op := by
  induction fs with
  | nil => simp [checkReserved]
  | cons f rest ih =>
    obtain ⟨f, b⟩ := f
    cases b <;> simp [checkReserved, ih]

end Sys2Proof
end

