-- ==== Sys2Proof/Laws/Float.lean ====
section
/-! SUPPORT. What the operations of the float arithmetic compute, as exact rationals: one lemma for each. -/

namespace Sys2Proof.Machine

/-- `halfEven n d` is an integer nearest to `n / d`, the even one of two equally near (R13). -/
theorem halfEven_spec (n : Nat) {d : Nat} (hd : 0 < d) :
    (halfEven n d * d ≤ n ∧ 2 * (n - halfEven n d * d) ≤ d ∧ (2 * (n - halfEven n d * d) = d → halfEven n d % 2 = 0)) ∨
      (n < halfEven n d * d ∧ 2 * (halfEven n d * d - n) ≤ d ∧ (2 * (halfEven n d * d - n) = d → halfEven n d % 2 = 0)) := by
  have hdiv : n / d * d + n % d = n := Nat.div_add_mod' n d
  have hlt : n % d < d := Nat.mod_lt n hd
  have hsucc : (n / d + 1) * d = n / d * d + d := Nat.succ_mul _ _
  unfold halfEven
  simp only
  split
  · left; omega
  · split
    · right; rw [hsucc]; omega
    · split
      · left; omega
      · right; rw [hsucc]; omega

/-- `halfEven n d` is within half of `d` of `n`, as rationals. -/
theorem halfEven_near (n : Nat) {d : Nat} (hd : 0 < d) :
    |(halfEven n d : ℚ) - (n : ℚ) / d| ≤ 1 / 2 := by
  have hd' : (0 : ℚ) < d := by exact_mod_cast hd
  have key : |(halfEven n d : ℚ) * d - n| * 2 ≤ d := by
    rcases halfEven_spec n hd with ⟨h1, h2, -⟩ | ⟨h1, h2, -⟩
    · rw [abs_sub_comm, abs_of_nonneg (by have : ((halfEven n d * d : Nat) : ℚ) ≤ n := by exact_mod_cast h1
                                          push_cast at this; linarith)]
      have : ((2 * (n - halfEven n d * d) : Nat) : ℚ) ≤ d := by exact_mod_cast h2
      rw [Nat.cast_mul, Nat.cast_sub h1] at this
      push_cast at this
      linarith
    · rw [abs_of_nonneg (by have : (n : ℚ) < ((halfEven n d * d : Nat) : ℚ) := by exact_mod_cast h1
                            push_cast at this; linarith)]
      have : ((2 * (halfEven n d * d - n) : Nat) : ℚ) ≤ d := by exact_mod_cast h2
      rw [Nat.cast_mul, Nat.cast_sub h1.le] at this
      push_cast at this
      linarith
  have : (halfEven n d : ℚ) - (n : ℚ) / d = ((halfEven n d : ℚ) * d - n) / d := by field_simp
  rw [this, abs_div, abs_of_pos hd', div_le_iff₀ hd']
  linarith

theorem scalePow_den_pos {x : Ratio} (h : 0 < x.den) (e : Int) : 0 < (x.scalePow e).den := by
  cases e with
  | ofNat k => exact h
  | negSucc k => exact Nat.mul_pos h (Nat.two_pow_pos _)

theorem scalePow_num_eq_zero {x : Ratio} (e : Int) : (x.scalePow e).num = 0 ↔ x.num = 0 := by
  cases e with
  | ofNat k => simp [Ratio.scalePow]
  | negSucc k => rfl

/-- `scalePow` multiplies by the power of two, exactly. -/
theorem scalePow_value (x : Ratio) (e : Int) :
    ((x.scalePow e).num : ℚ) / (x.scalePow e).den = (x.num : ℚ) / x.den * (2 : ℚ) ^ e := by
  cases e with
  | ofNat k => simp [Ratio.scalePow, mul_div_right_comm]
  | negSucc k => simp [Ratio.scalePow, zpow_negSucc, div_eq_mul_inv, mul_assoc, mul_comm]

theorem mulNat_value (x : Ratio) (m : Nat) : ((x.mulNat m).num : ℚ) / (x.mulNat m).den = (x.num : ℚ) / x.den * m := by
  simp [Ratio.mulNat, mul_div_right_comm]

theorem divNat_value (x : Ratio) (d : Nat) : ((x.divNat d).num : ℚ) / (x.divNat d).den = (x.num : ℚ) / x.den / d := by
  simp [Ratio.divNat, div_div]

theorem toRatio_den_pos (d : Dyad) : 0 < d.toRatio.den := scalePow_den_pos (x := ⟨d.sig, 1⟩) Nat.one_pos _

theorem toRatio_value (d : Dyad) : (d.toRatio.num : ℚ) / d.toRatio.den = (d.sig : ℚ) * (2 : ℚ) ^ d.exp := by
  rw [Dyad.toRatio, scalePow_value]; simp

/-- `floor` is the integer part. -/
theorem floor_value (x : Ratio) : (x.floor : ℤ) = ⌊(x.num : ℚ) / x.den⌋ := by
  rw [Ratio.floor, Rat.floor_natCast_div_natCast, Int.natCast_div]

/-- `floorLog2` is the exponent of the leading bit. -/
theorem floorLog2_spec {x : Ratio} (hn : 0 < x.num) (hd : 0 < x.den) :
    (2 : ℚ) ^ x.floorLog2 ≤ (x.num : ℚ) / x.den ∧ (x.num : ℚ) / x.den < (2 : ℚ) ^ (x.floorLog2 + 1) := by
  have h2 : (2 : ℚ) ≠ 0 := by norm_num
  have hn' : (0 : ℚ) < x.num := by exact_mod_cast hn
  have hd' : (0 : ℚ) < x.den := by exact_mod_cast hd
  have n1 : (2 : ℚ) ^ (x.num.log2 : ℤ) ≤ x.num := by
    rw [zpow_natCast]; exact_mod_cast Nat.log2_self_le hn.ne'
  have n2 : (x.num : ℚ) < (2 : ℚ) ^ ((x.num.log2 : ℤ) + 1) := by
    have := Nat.lt_log2_self (n := x.num)
    rw [← Nat.cast_succ, zpow_natCast]; exact_mod_cast this
  have d1 : (2 : ℚ) ^ (x.den.log2 : ℤ) ≤ x.den := by
    rw [zpow_natCast]; exact_mod_cast Nat.log2_self_le hd.ne'
  have d2 : (x.den : ℚ) < (2 : ℚ) ^ ((x.den.log2 : ℤ) + 1) := by
    have := Nat.lt_log2_self (n := x.den)
    rw [← Nat.cast_succ, zpow_natCast]; exact_mod_cast this
  set k : ℤ := (x.num.log2 : ℤ) - (x.den.log2 : ℤ) with hk
  have hi : (x.num : ℚ) / x.den < (2 : ℚ) ^ (k + 1) := by
    rw [div_lt_iff₀ hd']
    calc (x.num : ℚ) < (2 : ℚ) ^ ((x.num.log2 : ℤ) + 1) := n2
      _ = (2 : ℚ) ^ (k + 1) * (2 : ℚ) ^ (x.den.log2 : ℤ) := by rw [← zpow_add₀ h2]; congr 1; omega
      _ ≤ (2 : ℚ) ^ (k + 1) * x.den := by gcongr
  have lo : (2 : ℚ) ^ (k - 1) ≤ (x.num : ℚ) / x.den := by
    rw [le_div_iff₀ hd']
    calc (2 : ℚ) ^ (k - 1) * x.den ≤ (2 : ℚ) ^ (k - 1) * (2 : ℚ) ^ ((x.den.log2 : ℤ) + 1) := by gcongr
      _ = (2 : ℚ) ^ (x.num.log2 : ℤ) := by rw [← zpow_add₀ h2]; congr 1; omega
      _ ≤ x.num := n1
  have hy : ((x.scalePow (-k)).num < (x.scalePow (-k)).den) ↔ (x.num : ℚ) / x.den < (2 : ℚ) ^ k := by
    have hden : (0 : ℚ) < (x.scalePow (-k)).den := by exact_mod_cast scalePow_den_pos hd _
    have hval := scalePow_value x (-k)
    rw [← Nat.cast_lt (α := ℚ), ← div_lt_one hden, hval, zpow_neg, ← div_eq_mul_inv, div_lt_one (by positivity)]
  unfold Ratio.floorLog2
  simp only [← hk]
  split
  · next h => exact ⟨lo, by simpa using hy.mp h⟩
  · next h => exact ⟨not_lt.mp fun h' => h (hy.mpr h'), hi⟩

/-- Rounding a positive magnitude: the significand nearest to `x` in units of its last place, then the format's range
(R13). -/
theorem round_of_pos {fmt : FloatFormat} {x : Ratio} (hn : x.num ≠ 0) :
    fmt.round x =
      fmt.fit (halfEven (x.scalePow (-(x.lastPlace fmt))).num (x.scalePow (-(x.lastPlace fmt))).den) (x.lastPlace fmt) := by
  simp [FloatFormat.round, hn]

theorem round_of_zero {fmt : FloatFormat} {x : Ratio} (hn : x.num = 0) : fmt.round x = some ⟨0, fmt.minExp⟩ := by
  simp [FloatFormat.round, hn]

/-- `fit` keeps the value, and the significand fits. -/
theorem fit_eq_some {fmt : FloatFormat} {sig : Nat} {e : Int} {d : Dyad} (hp : 0 < fmt.prec) (h : fmt.fit sig e = some d) :
    ((sig = 2 ^ fmt.prec ∧ d = ⟨2 ^ (fmt.prec - 1), e + 1⟩) ∨ (sig ≠ 2 ^ fmt.prec ∧ d = ⟨sig, e⟩)) ∧
      d.exp ≤ fmt.maxExp ∧ (d.sig : ℚ) * (2 : ℚ) ^ d.exp = (sig : ℚ) * (2 : ℚ) ^ e := by
  have h2 : (2 : ℚ) ≠ 0 := by norm_num
  unfold FloatFormat.fit at h
  by_cases hs : sig = 2 ^ fmt.prec
  · simp only [hs, if_true] at h
    split at h
    · cases h
    · next hr =>
      obtain rfl := Option.some.inj h
      refine ⟨.inl ⟨hs, rfl⟩, not_lt.mp hr, ?_⟩
      obtain ⟨p, hp'⟩ : ∃ p, fmt.prec = p + 1 := ⟨fmt.prec - 1, by omega⟩
      rw [hs, hp', zpow_add₀ h2]
      push_cast
      simp only [pow_succ]
      ring
  · simp only [hs, if_false] at h
    split at h
    · cases h
    · next hr =>
      obtain rfl := Option.some.inj h
      exact ⟨.inr ⟨hs, rfl⟩, not_lt.mp hr, rfl⟩

end Sys2Proof.Machine
end

