-- ==== Sys2Proof/Laws/State.lean ====
section
/-! SUPPORT. What each update of the state leaves in each field, by definition: no later proof unfolds a record update. -/

namespace Sys2Proof.Machine

/-! The writes of a frame-producing command (R88). -/

@[simp] theorem sendFrame_proto (f : Frame) (s : State) : (sendFrame f s).proto = s.proto := rfl

@[simp] theorem sendFrame_txf (f : Frame) (s : State) : (sendFrame f s).txf = f := rfl

@[simp] theorem sendFrame_txv (f : Frame) (s : State) : (sendFrame f s).txv = true := rfl

@[simp] theorem sendFrame_rxf (f : Frame) (s : State) : (sendFrame f s).rxf = s.rxf := rfl

@[simp] theorem sendFrame_rxw (f : Frame) (s : State) : (sendFrame f s).rxw = s.rxw := rfl

@[simp] theorem sendFrame_meas (f : Frame) (s : State) : (sendFrame f s).meas = s.meas := rfl

@[simp] theorem sendFrame_status (f : Frame) (s : State) : (sendFrame f s).status = stFrame := rfl

@[simp] theorem sendFrame_cfg (f : Frame) (s : State) : (sendFrame f s).cfg = s.cfg := rfl

@[simp] theorem sendFrame_pending (f : Frame) (s : State) : (sendFrame f s).pending = s.pending := rfl

@[simp] theorem sendFrame_reply (f : Frame) (s : State) : (sendFrame f s).reply = s.reply := rfl

@[simp] theorem sendFrame_draws (f : Frame) (s : State) : (sendFrame f s).draws = s.draws := rfl

/-! The UNSUPPORTED outcome (R174). -/

@[simp] theorem unsupported_proto (s : State) : (unsupported s).proto = s.proto := rfl

@[simp] theorem unsupported_txf (s : State) : (unsupported s).txf = s.txf := rfl

@[simp] theorem unsupported_txv (s : State) : (unsupported s).txv = false := rfl

@[simp] theorem unsupported_rxf (s : State) : (unsupported s).rxf = s.rxf := rfl

@[simp] theorem unsupported_rxw (s : State) : (unsupported s).rxw = s.rxw := rfl

@[simp] theorem unsupported_meas (s : State) : (unsupported s).meas = s.meas := rfl

@[simp] theorem unsupported_status (s : State) : (unsupported s).status = stUnsupported := rfl

@[simp] theorem unsupported_cfg (s : State) : (unsupported s).cfg = s.cfg := rfl

@[simp] theorem unsupported_pending (s : State) : (unsupported s).pending = s.pending := rfl

@[simp] theorem unsupported_reply (s : State) : (unsupported s).reply = s.reply := rfl

@[simp] theorem unsupported_draws (s : State) : (unsupported s).draws = s.draws := rfl

/-! ILLEGAL (R125). -/

@[simp] theorem illegalCommand_proto (s : State) : (illegalCommand s).proto = s.proto := rfl

@[simp] theorem illegalCommand_txf (s : State) : (illegalCommand s).txf = s.txf := rfl

@[simp] theorem illegalCommand_txv (s : State) : (illegalCommand s).txv = s.txv := rfl

@[simp] theorem illegalCommand_rxf (s : State) : (illegalCommand s).rxf = s.rxf := rfl

@[simp] theorem illegalCommand_rxw (s : State) : (illegalCommand s).rxw = s.rxw := rfl

@[simp] theorem illegalCommand_meas (s : State) : (illegalCommand s).meas = s.meas := rfl

@[simp] theorem illegalCommand_status (s : State) : (illegalCommand s).status = stIllegalOp := rfl

@[simp] theorem illegalCommand_cfg (s : State) : (illegalCommand s).cfg = s.cfg := rfl

@[simp] theorem illegalCommand_pending (s : State) : (illegalCommand s).pending = s.pending := rfl

@[simp] theorem illegalCommand_reply (s : State) : (illegalCommand s).reply = s.reply := rfl

@[simp] theorem illegalCommand_draws (s : State) : (illegalCommand s).draws = s.draws := rfl

/-! PARSE's writes (R190). -/

@[simp] theorem takeParsed_proto (r : Parsed) (s : State) : (takeParsed r s).proto = s.proto := rfl

@[simp] theorem takeParsed_txf (r : Parsed) (s : State) : (takeParsed r s).txf = s.txf := rfl

@[simp] theorem takeParsed_txv (r : Parsed) (s : State) : (takeParsed r s).txv = s.txv := rfl

@[simp] theorem takeParsed_rxf (r : Parsed) (s : State) : (takeParsed r s).rxf = r.rxf := rfl

@[simp] theorem takeParsed_rxw (r : Parsed) (s : State) : (takeParsed r s).rxw = s.rxw := rfl

@[simp] theorem takeParsed_meas (r : Parsed) (s : State) : (takeParsed r s).meas = r.meas := rfl

@[simp] theorem takeParsed_status (r : Parsed) (s : State) : (takeParsed r s).status = r.status := rfl

@[simp] theorem takeParsed_cfg (r : Parsed) (s : State) : (takeParsed r s).cfg = s.cfg := rfl

@[simp] theorem takeParsed_pending (r : Parsed) (s : State) : (takeParsed r s).pending = s.pending := rfl

@[simp] theorem takeParsed_reply (r : Parsed) (s : State) : (takeParsed r s).reply = s.reply := rfl

@[simp] theorem takeParsed_draws (r : Parsed) (s : State) : (takeParsed r s).draws = s.draws := rfl

/-! RXLOAD (R51). -/

@[simp] theorem rxLoad_proto (f : Frame) (s : State) : (rxLoad f s).proto = s.proto := rfl

@[simp] theorem rxLoad_txf (f : Frame) (s : State) : (rxLoad f s).txf = s.txf := rfl

@[simp] theorem rxLoad_txv (f : Frame) (s : State) : (rxLoad f s).txv = s.txv := rfl

@[simp] theorem rxLoad_rxf (f : Frame) (s : State) : (rxLoad f s).rxf = f := rfl

@[simp] theorem rxLoad_rxw (f : Frame) (s : State) : (rxLoad f s).rxw = true := rfl

@[simp] theorem rxLoad_meas (f : Frame) (s : State) : (rxLoad f s).meas = s.meas := rfl

@[simp] theorem rxLoad_status (f : Frame) (s : State) : (rxLoad f s).status = s.status := rfl

@[simp] theorem rxLoad_cfg (f : Frame) (s : State) : (rxLoad f s).cfg = s.cfg := rfl

@[simp] theorem rxLoad_pending (f : Frame) (s : State) : (rxLoad f s).pending = s.pending := rfl

@[simp] theorem rxLoad_reply (f : Frame) (s : State) : (rxLoad f s).reply = s.reply := rfl

@[simp] theorem rxLoad_draws (f : Frame) (s : State) : (rxLoad f s).draws = s.draws := rfl

/-! READ (R53). -/

@[simp] theorem readToHost_proto (r : RegName) (s : State) : (readToHost r s).proto = s.proto := rfl

@[simp] theorem readToHost_txf (r : RegName) (s : State) : (readToHost r s).txf = s.txf := rfl

@[simp] theorem readToHost_txv (r : RegName) (s : State) : (readToHost r s).txv = s.txv := rfl

@[simp] theorem readToHost_rxf (r : RegName) (s : State) : (readToHost r s).rxf = s.rxf := rfl

@[simp] theorem readToHost_rxw (r : RegName) (s : State) : (readToHost r s).rxw = s.rxw := rfl

@[simp] theorem readToHost_meas (r : RegName) (s : State) : (readToHost r s).meas = s.meas := rfl

@[simp] theorem readToHost_status (r : RegName) (s : State) : (readToHost r s).status = s.status := rfl

@[simp] theorem readToHost_cfg (r : RegName) (s : State) : (readToHost r s).cfg = s.cfg := rfl

@[simp] theorem readToHost_pending (r : RegName) (s : State) : (readToHost r s).pending = s.pending := rfl

@[simp] theorem readToHost_reply (r : RegName) (s : State) : (readToHost r s).reply = some (readRegister r s) := rfl

@[simp] theorem readToHost_draws (r : RegName) (s : State) : (readToHost r s).draws = s.draws := rfl

/-! A word presented on the port. -/

@[simp] theorem presentWord_proto (s : State) (n w : Nat) : (presentWord s n w).proto = s.proto := rfl

@[simp] theorem presentWord_txf (s : State) (n w : Nat) : (presentWord s n w).txf = s.txf := rfl

@[simp] theorem presentWord_txv (s : State) (n w : Nat) : (presentWord s n w).txv = s.txv := rfl

@[simp] theorem presentWord_rxf (s : State) (n w : Nat) : (presentWord s n w).rxf = s.rxf := rfl

@[simp] theorem presentWord_rxw (s : State) (n w : Nat) : (presentWord s n w).rxw = s.rxw := rfl

@[simp] theorem presentWord_meas (s : State) (n w : Nat) : (presentWord s n w).meas = s.meas := rfl

@[simp] theorem presentWord_status (s : State) (n w : Nat) : (presentWord s n w).status = s.status := rfl

@[simp] theorem presentWord_cfg (s : State) (n w : Nat) : (presentWord s n w).cfg = s.cfg := rfl

@[simp] theorem presentWord_pending (s : State) (n w : Nat) : (presentWord s n w).pending = .cmd (tableWord n w) :: s.pending := rfl

@[simp] theorem presentWord_reply (s : State) (n w : Nat) : (presentWord s n w).reply = s.reply := rfl

@[simp] theorem presentWord_draws (s : State) (n w : Nat) : (presentWord s n w).draws = s.draws := rfl

/-! The state right after reset (R250). -/

@[simp] theorem initial_proto (c : Cfg) : (State.initial c).proto = (Protocol.ofTag c.protoInit).getD .A := rfl

@[simp] theorem initial_txf (c : Cfg) : (State.initial c).txf = Frame.zero := rfl

@[simp] theorem initial_txv (c : Cfg) : (State.initial c).txv = false := rfl

@[simp] theorem initial_rxf (c : Cfg) : (State.initial c).rxf = Frame.zero := rfl

@[simp] theorem initial_rxw (c : Cfg) : (State.initial c).rxw = false := rfl

@[simp] theorem initial_meas (c : Cfg) : (State.initial c).meas = Measurement.cleared := rfl

@[simp] theorem initial_status (c : Cfg) : (State.initial c).status = 0x00 := rfl

@[simp] theorem initial_cfg (c : Cfg) : (State.initial c).cfg = c := rfl

@[simp] theorem initial_pending (c : Cfg) : (State.initial c).pending = [] := rfl

@[simp] theorem initial_reply (c : Cfg) : (State.initial c).reply = none := rfl

@[simp] theorem initial_draws (c : Cfg) : (State.initial c).draws = 0 := rfl

end Sys2Proof.Machine
end

