-- ==== Sys2Proof/Laws/Ops.lean ====
section
/-! SUPPORT. One lemma for each shared operation that says once everything it can do; later proofs cite these instead of
unfolding the operation. -/

namespace Sys2Proof.Machine

/-! ## Constants and codes -/

@[simp] theorem addrField_A : addrField .A = Config.afA := by decide

@[simp] theorem addrField_B : addrField .B = Config.afB := by decide

theorem Protocol_ofTag_tag (p : Protocol) : Protocol.ofTag p.tag = some p := by cases p <;> decide

theorem Protocol_ofTag_eq_some {t : Byte} {p : Protocol} (h : Protocol.ofTag t = some p) : p.tag = t := by
  unfold Protocol.ofTag at h
  split at h
  · next ht => cases h; simp [Protocol.tag, ht]
  · split at h
    · next ht => cases h; simp [Protocol.tag, ht]
    · cases h

/-- What a configuration that passed the checks gives for either protocol: K1 to K4, K8, K9, positivity. -/
theorem valid_table {c : Cfg} (h : c.valid = true) (p : Protocol) : (tableOf c p).valid (addrField p) = true := by
  simp only [Cfg.valid, Bool.and_eq_true] at h
  cases p
  · simpa [tableOf] using h.1.1.1.1
  · simpa [tableOf] using h.1.1.1.2

/-- K1 to K4, K8, K9 and positivity, as propositions. -/
theorem table_checks {t : ProtoTable} {af : Word} (h : t.valid af = true) :
    (t.idRead.getLsbD 31 = true ∧ t.idCtrl.getLsbD 31 = true) ∧ (t.idRead &&& af = 0 ∧ t.idCtrl &&& af = 0) ∧
      t.mask &&& af = 0 ∧ t.idRead &&& t.mask = t.expect ∧ t.pwrOn ≠ t.pwrOff ∧ t.expect &&& ~~~t.mask = 0 ∧
      0 < t.mulV ∧ 0 < t.mulI ∧ 0 < t.divV ∧ 0 < t.divI ∧ 0 < t.divT ∧ 0 < t.divC := by
  simp only [ProtoTable.valid, ProtoTable.k1, ProtoTable.k2, ProtoTable.k3, ProtoTable.k4, ProtoTable.k8, ProtoTable.k9,
    ProtoTable.positive, Bool.and_eq_true, beq_iff_eq, bne_iff_ne, decide_eq_true_eq] at h
  tauto

/-! ## The encoder -/

theorem requestFrame_eq (x : MeasField) (addr : Byte) (s : State) :
    requestFrame x addr s =
      sendFrame (frameOf s.cfg s.proto (tableOf s.cfg s.proto).idRead (readCode s.cfg s.proto x) 0 addr) s := rfl

theorem controlFrame_eq (code : Half) (body : Word) (addr : Byte) (s : State) :
    controlFrame code body addr s =
      sendFrame (frameOf s.cfg s.proto (tableOf s.cfg s.proto).idCtrl code body addr) s := rfl

/-- A set-point sends a control frame; its body is the scaled value, or a free value that is then counted
(R162, R163). -/
theorem setPoint_cases (code : Half) (mul : Nat) (addr : Byte) (v : Word) (s : State) :
    (∃ body, scaledBody s.cfg.scaleArith v mul = some body ∧ setPoint code mul addr v s = controlFrame code body addr s) ∨
      (scaledBody s.cfg.scaleArith v mul = none ∧
        setPoint code mul addr v s = { controlFrame code (Config.drawnBody s.draws) addr s with draws := s.draws + 1 }) := by
  unfold setPoint
  cases h : scaledBody s.cfg.scaleArith v mul with
  | some body => exact .inl ⟨body, rfl, rfl⟩
  | none => exact .inr ⟨rfl, rfl⟩

/-! ## The dispatcher -/

/-- Protocol selection (R121). -/
theorem selectProtocol_cases (tag : Byte) (s : State) :
    (∃ p, Protocol.ofTag tag = some p ∧ selectProtocol tag s = { s with proto := p, status := stSelectOk }) ∨
      (Protocol.ofTag tag = none ∧ selectProtocol tag s = { s with status := stSelectRejected }) := by
  unfold selectProtocol
  cases h : Protocol.ofTag tag with
  | some p => exact .inl ⟨p, rfl, rfl⟩
  | none => exact .inr ⟨rfl, rfl⟩

/-! ## The decoder -/

theorem frameMatches_iff (c : Cfg) (p : Protocol) (f : Frame) :
    frameMatches c p f = true ↔ f.id &&& (tableOf c p).mask = (tableOf c p).expect ∧ f.len = 0x08 := by
  simp [frameMatches]

/-- The router's answer is a field whose read code the code is (R194). -/
theorem classify_eq_some {c : Cfg} {p : Protocol} {code : Half} {x : MeasField} (h : classify c p code = some x) :
    readCode c p x = code := by
  simpa using List.find?_some h

/-- The router answers nothing exactly for a code that is no read code (R195). -/
theorem classify_eq_none (c : Cfg) (p : Protocol) (code : Half) :
    classify c p code = none ↔ ∀ x, readCode c p x ≠ code := by
  constructor
  · intro h x
    have := List.find?_eq_none.mp h x (by cases x <;> simp)
    simpa using this
  · intro h
    exact List.find?_eq_none.mpr fun x _ => by simpa using h x

/-- Everything the decoder can answer (R190, R199). -/
theorem parseFrame_cases (c : Cfg) (p : Protocol) (f : Frame) :
    (frameMatches c p f = false ∧ parseFrame c p f = ⟨stInvalidFrame, Measurement.cleared, f⟩) ∨
      (frameMatches c p f = true ∧ classify c p (payloadCode p f.data) = none ∧
        parseFrame c p f = ⟨stUnknownCmd, Measurement.cleared, sanitizeFrame p f⟩) ∨
      (frameMatches c p f = true ∧ ∃ x, classify c p (payloadCode p f.data) = some x ∧
        parseFrame c p f = ⟨stOk, measurementOf c p x (idAddr p f.id) (rawValue f.data), sanitizeFrame p f⟩) := by
  have hraw : rawValue (sanitizeFrame p f).data = rawValue f.data := by cases p <;> rfl
  cases hm : frameMatches c p f with
  | false => exact .inl ⟨rfl, by simp [parseFrame, hm]⟩
  | true =>
    cases hc : classify c p (payloadCode p f.data) with
    | none => exact .inr (.inl ⟨rfl, rfl, by simp [parseFrame, hm, hc]⟩)
    | some x => exact .inr (.inr ⟨rfl, x, rfl, by simp [parseFrame, hm, hc, hraw]⟩)

/-- The measurement of a field: address, presence set, the field's own register and zeros (R208). -/
theorem measurementOf_spec (c : Cfg) (p : Protocol) (x : MeasField) (a : BitVec 7) (r : Word) :
    (measurementOf c p x a r).addr = a.setWidth 8 ∧ (measurementOf c p x a r).p = pAddr ||| pField x ∧
      ∀ y, y ≠ x → (measurementOf c p x a r).value y = 0 := by
  refine ⟨?_, ?_, ?_⟩
  · cases x <;> rfl
  · cases x <;> rfl
  · intro y hy
    cases x <;> cases y <;> first | exact absurd rfl hy | rfl

/-- PARSE answers exactly while `RXW = 1` (R190). -/
theorem execParse_eq_next {s t : State} :
    execParse s = .next t ↔ s.rxw = true ∧ t = takeParsed (parseFrame s.cfg s.proto s.rxf) s := by
  unfold execParse
  cases hw : s.rxw <;> simp [eq_comm]

/-! ## Steps -/

/-- A step with a transaction presented runs that transaction on the state without it. -/
theorem step_of_pending {s : State} {x : Transaction} {rest : List Transaction} (h : s.pending = x :: rest) :
    step s = runTransaction x { s with pending := rest } := by
  simp [step, runPort, h]

/-- A step with nothing presented changes nothing. -/
theorem step_of_idle {s : State} (h : s.pending = []) : step s = .next s := by
  simp [step, runPort, h]

/-- The three ways a CMD runs (R120, R125, R73). -/
theorem runCommand_cases (w : CmdWord) (s : State) :
    (∃ i, decode w = .instr i ∧ runCommand w s = exec i s) ∨
      (∃ op, decode w = .illegal op ∧ runCommand w s = .next (illegalCommand s)) ∨
      (∃ f, decode w = .reserved f ∧ runCommand w s = .refused (.reservedField f)) := by
  unfold runCommand
  cases h : decode w with
  | instr i => exact .inl ⟨i, rfl, rfl⟩
  | illegal op => exact .inr (.inl ⟨op, rfl, rfl⟩)
  | reserved f => exact .inr (.inr ⟨f, rfl, rfl⟩)

/-- Every command but PARSE answers a next state, from any state. -/
theorem exec_completes (i : Instr) (s : State) (h : i ≠ .parse) : ∃ t, exec i s = .next t := by
  cases i <;> first | exact absurd rfl h | exact ⟨_, rfl⟩

end Sys2Proof.Machine
end

