-- ==== Sys2Proof/Laws/PerInstr.lean ====
section
/-! SUPPORT. Facts of one instruction as syntax, made per constructor. -/

namespace Sys2Proof.Laws.EncodeWellFormed

/-- The encoding of an instruction is a well-formed command word: it belongs to a row of the opcode table
(30_encoding.md R71, R73). -/
def Statement (i : Instr) : Prop := wellFormedWord (encode i) = true

/-- Masking a packed word masks its fields. -/
theorem packWord_and (v mv : Word) (t mt a ma op mo mr : Byte) :
    packWord v t a op &&& (mv ++ mr ++ mt ++ ma ++ mo) = packWord (v &&& mv) (t &&& mt) (a &&& ma) (op &&& mo) := by
  show ((v ++ 0#8 ++ t ++ a ++ op : BitVec (32 + 8 + 8 + 8 + 8)) &&&
      (mv ++ mr ++ mt ++ ma ++ mo : BitVec (32 + 8 + 8 + 8 + 8))) =
    ((v &&& mv) ++ 0#8 ++ (t &&& mt) ++ (a &&& ma) ++ (op &&& mo) : BitVec (32 + 8 + 8 + 8 + 8))
  simp only [BitVec.and_append, BitVec.zero_and]

/-- A packed word belongs to a row when masking its fields gives the row's pattern. -/
theorem of_row {i : Instr} {name : String} {pat mask : CmdWord} {v mv : Word} {t mt a ma op mo : Byte}
    (hr : ⟨name, pat, mask⟩ ∈ opcodeRows) (hi : encode i = packWord v t a op)
    (hm : mask = mv ++ 0xFF#8 ++ mt ++ ma ++ mo)
    (hp : packWord (v &&& mv) (t &&& mt) (a &&& ma) (op &&& mo) = pat) : Statement i := by
  refine List.any_eq_true.mpr ⟨_, hr, ?_⟩
  simp only [OpcodeRow.covers, hi, hm, packWord_and, hp, beq_self_eq_true]

theorem select (tag : Byte) : Statement (.select tag) :=
  of_row (name := "SELECT") (pat := 0x0000000000000001) (mask := 0xFFFFFFFFFF00FFFF) (mv := 0xFFFFFFFF) (mt := 0)
    (ma := 0xFF) (mo := 0xFF) (by decide) rfl (by decide) (by simp; decide)

theorem reqv (addr : Byte) : Statement (.reqv addr) :=
  of_row (name := "REQV") (pat := 0x0000000000000002) (mask := 0xFFFFFFFFFFFF00FF) (mv := 0xFFFFFFFF) (mt := 0xFF)
    (ma := 0) (mo := 0xFF) (by decide) rfl (by decide) (by simp; decide)

theorem reqi (addr : Byte) : Statement (.reqi addr) :=
  of_row (name := "REQI") (pat := 0x0000000000000003) (mask := 0xFFFFFFFFFFFF00FF) (mv := 0xFFFFFFFF) (mt := 0xFF)
    (ma := 0) (mo := 0xFF) (by decide) rfl (by decide) (by simp; decide)

theorem reqt (addr : Byte) : Statement (.reqt addr) :=
  of_row (name := "REQT") (pat := 0x0000000000000004) (mask := 0xFFFFFFFFFFFF00FF) (mv := 0xFFFFFFFF) (mt := 0xFF)
    (ma := 0) (mo := 0xFF) (by decide) rfl (by decide) (by simp; decide)

theorem reqf (addr : Byte) : Statement (.reqf addr) :=
  of_row (name := "REQF") (pat := 0x0000000000000005) (mask := 0xFFFFFFFFFFFF00FF) (mv := 0xFFFFFFFF) (mt := 0xFF)
    (ma := 0) (mo := 0xFF) (by decide) rfl (by decide) (by simp; decide)

theorem reqc (addr : Byte) : Statement (.reqc addr) :=
  of_row (name := "REQC") (pat := 0x0000000000000006) (mask := 0xFFFFFFFFFFFF00FF) (mv := 0xFFFFFFFF) (mt := 0xFF)
    (ma := 0) (mo := 0xFF) (by decide) rfl (by decide) (by simp; decide)

theorem setv (addr : Byte) (value : Word) : Statement (.setv addr value) :=
  of_row (name := "SETV") (pat := 0x0000000000000007) (mask := 0x00000000FFFF00FF) (mv := 0) (mt := 0xFF)
    (ma := 0) (mo := 0xFF) (by decide) rfl (by decide) (by simp; decide)

theorem seti (addr : Byte) (value : Word) : Statement (.seti addr value) :=
  of_row (name := "SETI") (pat := 0x0000000000000008) (mask := 0x00000000FFFF00FF) (mv := 0) (mt := 0xFF)
    (ma := 0) (mo := 0xFF) (by decide) rfl (by decide) (by simp; decide)

theorem modelow (addr : Byte) : Statement (.modelow addr) :=
  of_row (name := "MODELOW") (pat := 0x0000000000000009) (mask := 0xFFFFFFFFFFFF00FF) (mv := 0xFFFFFFFF) (mt := 0xFF)
    (ma := 0) (mo := 0xFF) (by decide) rfl (by decide) (by simp; decide)

theorem modehigh (addr : Byte) : Statement (.modehigh addr) :=
  of_row (name := "MODEHIGH") (pat := 0x000000000000000A) (mask := 0xFFFFFFFFFFFF00FF) (mv := 0xFFFFFFFF) (mt := 0xFF)
    (ma := 0) (mo := 0xFF) (by decide) rfl (by decide) (by simp; decide)

theorem modeauto (addr : Byte) : Statement (.modeauto addr) :=
  of_row (name := "MODEAUTO") (pat := 0x000000000000000B) (mask := 0xFFFFFFFFFFFF00FF) (mv := 0xFFFFFFFF) (mt := 0xFF)
    (ma := 0) (mo := 0xFF) (by decide) rfl (by decide) (by simp; decide)

theorem enable (addr : Byte) : Statement (.enable addr) :=
  of_row (name := "ENABLE") (pat := 0x000000000000000C) (mask := 0xFFFFFFFFFFFF00FF) (mv := 0xFFFFFFFF) (mt := 0xFF)
    (ma := 0) (mo := 0xFF) (by decide) rfl (by decide) (by simp; decide)

theorem disable (addr : Byte) : Statement (.disable addr) :=
  of_row (name := "DISABLE") (pat := 0x000000000000000D) (mask := 0xFFFFFFFFFFFF00FF) (mv := 0xFFFFFFFF) (mt := 0xFF)
    (ma := 0) (mo := 0xFF) (by decide) rfl (by decide) (by simp; decide)

theorem parse : Statement .parse := by
  unfold Statement
  decide

end Sys2Proof.Laws.EncodeWellFormed
end

