-- ==== Sys2Proof/Laws/Step.lean ====
section
/-! SUPPORT. What a command and a step can do, said once: every later proof about all commands cases on these instead
of unfolding `exec` or `step`. -/

namespace Sys2Proof.Machine

/-- Protocol selection writes `PROTO` and `STATUS` and nothing else (R121). -/
theorem selectProtocol_keeps (tag : Byte) (s : State) :
    selectProtocol tag s =
      { s with proto := (selectProtocol tag s).proto, status := (selectProtocol tag s).status } := by
  rcases selectProtocol_cases tag s with ⟨p, -, e⟩ | ⟨-, e⟩ <;> rw [e]

/-- The outcome code of protocol selection (R121). -/
theorem selectProtocol_status (tag : Byte) (s : State) :
    (selectProtocol tag s).status = stSelectOk ∨ (selectProtocol tag s).status = stSelectRejected := by
  rcases selectProtocol_cases tag s with ⟨p, -, e⟩ | ⟨-, e⟩ <;> simp [e]

/-- A command answers a next state exactly when it is not a PARSE before the first RXLOAD (R190). -/
theorem exec_next_iff (i : Instr) (s : State) : (∃ t, exec i s = .next t) ↔ (i ≠ .parse ∨ s.rxw = true) := by
  cases i <;> simp [exec, execSelect, execReqv, execReqi, execReqt, execReqf, execReqc, execSetv, execSeti, execModelow,
    execModehigh, execModeauto, execEnable, execDisable]
  unfold execParse
  split <;> simp_all

/-- No command is refused: a refusal comes from the command word, before any command runs (R73). -/
theorem exec_ne_refused (i : Instr) (s : State) (r : Refusal) : exec i s ≠ .refused r := by
  cases i <;> simp [exec, execSelect, execReqv, execReqi, execReqt, execReqf, execReqc, execSetv, execSeti, execModelow,
    execModehigh, execModeauto, execEnable, execDisable, execParse]
  split <;> simp

/-- Everything a command that answers can have done: a selection, a PARSE, the UNSUPPORTED outcome of MODEAUTO, or one
frame sent from a template of the selected protocol, with the model's counter of free values at some number. -/
theorem exec_cases {i : Instr} {s t : State} (h : exec i s = .next t) :
    (∃ tag, i = .select tag ∧ t = selectProtocol tag s) ∨
      (i = .parse ∧ s.rxw = true ∧ t = takeParsed (parseFrame s.cfg s.proto s.rxf) s) ∨
      (∃ addr, i = .modeauto addr ∧ t = unsupported s) ∨
      (∃ template code body addr d,
        (template = (tableOf s.cfg s.proto).idRead ∨ template = (tableOf s.cfg s.proto).idCtrl) ∧
          (∀ tag, i ≠ .select tag) ∧ i ≠ .parse ∧
          t = { sendFrame (frameOf s.cfg s.proto template code body addr) s with draws := d }) := by
  cases i with
  | select tag =>
    left
    simp only [exec, execSelect, Host.Outcome.next.injEq] at h
    exact ⟨tag, rfl, h.symm⟩
  | parse =>
    right; left
    simp only [exec, execParse_eq_next] at h
    exact ⟨rfl, h.1, h.2⟩
  | modeauto addr =>
    right; right
    simp only [exec, execModeauto, Host.Outcome.next.injEq] at h
    split at h
    · right; exact ⟨_, _, _, _, _, .inr rfl, by simp, by simp, h.symm⟩
    · left; exact ⟨addr, rfl, h.symm⟩
  | setv addr v =>
    right; right; right
    simp only [exec, execSetv, Host.Outcome.next.injEq] at h
    subst h
    rcases setPoint_cases (codeSetv s.cfg s.proto) (tableOf s.cfg s.proto).mulV addr v s with ⟨b, -, e⟩ | ⟨-, e⟩ <;>
      exact ⟨_, _, _, _, _, .inr rfl, by simp, by simp, e⟩
  | seti addr v =>
    right; right; right
    simp only [exec, execSeti, Host.Outcome.next.injEq] at h
    subst h
    rcases setPoint_cases (codeSeti s.cfg s.proto) (tableOf s.cfg s.proto).mulI addr v s with ⟨b, -, e⟩ | ⟨-, e⟩ <;>
      exact ⟨_, _, _, _, _, .inr rfl, by simp, by simp, e⟩
  | reqv addr | reqi addr | reqt addr | reqf addr | reqc addr =>
    right; right; right
    simp only [exec, execReqv, execReqi, execReqt, execReqf, execReqc, Host.Outcome.next.injEq] at h
    subst h
    exact ⟨_, _, _, _, _, .inl rfl, by simp, by simp, rfl⟩
  | modelow addr | modehigh addr | enable addr | disable addr =>
    right; right; right
    simp only [exec, execModelow, execModehigh, execEnable, execDisable, Host.Outcome.next.injEq] at h
    subst h
    exact ⟨_, _, _, _, _, .inr rfl, by simp, by simp, rfl⟩

/-- What no command changes: the written mark, the configuration and the host's side of the port. -/
theorem exec_keeps {i : Instr} {s t : State} (h : exec i s = .next t) :
    t.rxw = s.rxw ∧ t.cfg = s.cfg ∧ t.pending = s.pending ∧ t.reply = s.reply := by
  rcases exec_cases h with ⟨tag, -, rfl⟩ | ⟨-, -, rfl⟩ | ⟨_, -, rfl⟩ | ⟨_, _, _, _, _, -, -, -, rfl⟩
  · rw [selectProtocol_keeps tag s]; exact ⟨rfl, rfl, rfl, rfl⟩
  all_goals simp

/-- Everything a step that answers can have done: nothing on an empty port, or the oldest transaction (R51, R57). -/
theorem step_cases {s t : State} (h : step s = .next t) :
    (s.pending = [] ∧ t = s) ∨
      ∃ x rest, s.pending = x :: rest ∧
        ((∃ w i, x = .cmd w ∧ decode w = .instr i ∧ exec i { s with pending := rest } = .next t) ∨
          (∃ w op, x = .cmd w ∧ decode w = .illegal op ∧ t = illegalCommand { s with pending := rest }) ∨
          (∃ f, x = .rxload f ∧ t = rxLoad f { s with pending := rest }) ∨
          (∃ r, x = .read r ∧ t = readToHost r { s with pending := rest })) := by
  cases hp : s.pending with
  | nil =>
    rw [step_of_idle hp] at h
    exact .inl ⟨rfl, by simpa using h.symm⟩
  | cons x rest =>
    refine .inr ⟨x, rest, rfl, ?_⟩
    rw [step_of_pending hp] at h
    cases x with
    | cmd w =>
      simp only [runTransaction] at h
      rcases runCommand_cases w { s with pending := rest } with ⟨i, hd, e⟩ | ⟨op, hd, e⟩ | ⟨f, hd, e⟩ <;> rw [e] at h
      · exact .inl ⟨w, i, rfl, hd, h⟩
      · exact .inr (.inl ⟨w, op, rfl, hd, by simpa using h.symm⟩)
      · cases h
    | rxload f => exact .inr (.inr (.inl ⟨f, rfl, by simpa [runTransaction] using h.symm⟩))
    | read r => exact .inr (.inr (.inr ⟨r, rfl, by simpa [runTransaction] using h.symm⟩))

end Sys2Proof.Machine
end

