-- ==== Sys2Proof/Machine/Assembler.lean ====
section
/-! DEFINITION. The assembler of the spec's vectors, over lines already split into mnemonic and operands
(30_encoding.md R74, R75; log 14). It is the host's tool: no step uses it. -/

namespace Sys2Proof.Machine

/-- `<tag>`: `A`, `B` or an integer. -/
inductive AsmTag where
  | a
  | b
  | int (n : Nat)
deriving DecidableEq, Repr

/-- `<v>`: a decimal real `± digits / 10 ^ places`, or a raw pattern `f32:0x…`. -/
inductive AsmValue where
  | decimal (neg : Bool) (digits places : Nat)
  | raw (pattern : Word)
deriving DecidableEq, Repr

/-- The mnemonics of the form `<mnemonic> <a>`. -/
inductive AsmAddrOp where
  | reqv
  | reqi
  | reqt
  | reqf
  | reqc
  | modelow
  | modehigh
  | modeauto
  | enable
  | disable
deriving DecidableEq, Repr

/-- The mnemonics of the form `<mnemonic> <a>, <v>`. -/
inductive AsmSetOp where
  | setv
  | seti
deriving DecidableEq, Repr

/-- One line of a program (30_encoding.md R74). -/
inductive AsmLine where
  | select (tag : AsmTag)
  | addressed (op : AsmAddrOp) (a : Nat)
  | set (op : AsmSetOp) (a : Nat) (v : AsmValue)
  | parse
  | rxload (id len : Nat) (data : Payload)
  | read (r : RegName)
deriving DecidableEq, Repr

/-- An integer operand `0..255`. -/
def asmByte (n : Nat) : Option Byte := if n < 256 then some (BitVec.ofNat 8 n) else none

/-- The tag byte: `A` is 0x00, `B` is 0x01 (30_encoding.md R74). -/
def asmTag : AsmTag → Option Byte
  | .a => some 0x00
  | .b => some 0x01
  | .int n => asmByte n

/-- The pattern of a value: a decimal real is converted by `f32` (30_encoding.md R74, R75). -/
def asmValue : AsmValue → Word
  | .decimal neg digits places => f32 neg ⟨digits, 10 ^ places⟩
  | .raw w => w

/-- The instruction of a one-address mnemonic. -/
def asmAddrInstr : AsmAddrOp → Byte → Instr
  | .reqv => .reqv
  | .reqi => .reqi
  | .reqt => .reqt
  | .reqf => .reqf
  | .reqc => .reqc
  | .modelow => .modelow
  | .modehigh => .modehigh
  | .modeauto => .modeauto
  | .enable => .enable
  | .disable => .disable

/-- The instruction of a set-point mnemonic. -/
def asmSetInstr : AsmSetOp → Byte → Word → Instr
  | .setv => .setv
  | .seti => .seti

/-- The transaction a line stands for; `none` where an integer operand is out of its range. -/
def assemble : AsmLine → Option Transaction
  | .select t => (asmTag t).map fun b => .cmd (encode (.select b))
  | .addressed op a => (asmByte a).map fun b => .cmd (encode (asmAddrInstr op b))
  | .set op a v => (asmByte a).map fun b => .cmd (encode (asmSetInstr op b (asmValue v)))
  | .parse => some (.cmd (encode .parse))
  | .rxload id len data =>
    if id < 2 ^ 32 then (asmByte len).map fun l => .rxload ⟨BitVec.ofNat 32 id, l, data⟩ else none
  | .read r => some (.read r)

end Sys2Proof.Machine
end

