-- ==== Sys2Proof/Tests/Slice0.lean ====
section
/-! SUPPORT. Tests of the model on values taken from the spec's vectors (95_test_vectors.md, named in each comment), and a
witness for the hypotheses of every obligation that has some. -/

namespace Sys2Proof.Tests

open Sys2Proof Sys2Proof.Machine

/-! ## Helpers -/

/-- Right after reset under `P_REF`, protocol `p` selected. -/
def ref (p : Protocol) : State := { State.initial Config.pRef with proto := p }

/-- `ref p` with the frame loaded. -/
def loaded (p : Protocol) (id : Word) (len : Byte) (d : Payload) : State := rxLoad ⟨id, len, d⟩ (ref p)

/-- `ref p` with the transactions presented. -/
def presented (p : Protocol) (l : List Transaction) : State := { ref p with pending := l }

/-- What a command leaves, if it answers. -/
def after (i : Instr) (s : State) : Option State :=
  match exec i s with
  | .next t => some t
  | .fault _ => none
  | .refused _ => none

/-- The frame a command sends, if it reports one. -/
def sends (i : Instr) (s : State) : Option Frame :=
  (after i s).bind fun t => if t.txv && t.status == 0x01 then some t.txf else none

/-- `STATUS` and the measurement that PARSE leaves. -/
def parses (s : State) : Option (Byte × Measurement) := (after .parse s).map fun t => (t.status, t.meas)

/-! ## Well-formed words and checked configurations: each check refuses a term it is there to refuse -/

theorem test_word_reserved_opcode : wellFormedWord 0x000000000000000F = false := by decide
theorem test_word_rsv : wellFormedWord 0x0000000001001A02 = false := by decide
theorem test_word_tag : wellFormedWord 0x0000000000011A02 = false := by decide
theorem test_word_addr_of_select : wellFormedWord 0x0000000000001A01 = false := by decide
theorem test_word_addr_of_parse : wellFormedWord 0x000000000000010E = false := by decide
theorem test_word_value : wellFormedWord 0x3F80000000000001 = false := by decide
theorem test_word_well_formed : wellFormedWord 0x4242000000000507 = true := by decide

/-- No word is of two rows of the opcode table: any two rows disagree in a bit both fix. -/
theorem test_rows_do_not_overlap :
    opcodeRows.Pairwise (fun a b => a.mask &&& b.mask &&& (a.pattern ^^^ b.pattern) ≠ 0) := by decide

/-- `P_REF` with another protocol A table. -/
def withTabA (t : ProtoTable) : Cfg := { Config.pRef with tabA := t }

theorem test_config_k1 :
    let t := { Config.pRef.tabA with idCtrl := 0x02402000 }
    t.k1 = false ∧ (withTabA t).valid = false := by decide
theorem test_config_k2 :
    let t := { Config.pRef.tabA with idRead := 0x82404000 }
    t.k2 Config.afA = false ∧ (withTabA t).valid = false := by decide
theorem test_config_k3 :
    let t := { Config.pRef.tabA with mask := 0x9FF00000 }
    t.k3 Config.afA = false ∧ (withTabA t).valid = false := by decide
theorem test_config_k4 :
    let t := { Config.pRef.tabA with expect := 0x82200000 }
    t.k4 = false ∧ (withTabA t).valid = false := by decide
theorem test_config_k5 :
    let c := { Config.pRef with codesA := { Config.pRef.codesA with curr := 0x62 } }
    c.k5 = false ∧ c.valid = false := by decide
theorem test_config_k6 :
    let c := { Config.pRef with codesB := { Config.pRef.codesB with seti := 0x0101 } }
    c.k6 = false ∧ c.valid = false := by decide
theorem test_config_k8 :
    let t := { Config.pRef.tabA with pwrOff := 0x01 }
    t.k8 = false ∧ (withTabA t).valid = false := by decide
theorem test_config_k9 :
    let t := { Config.pRef.tabA with expect := 0xC2400000 }
    t.k9 = false ∧ (withTabA t).valid = false := by decide
theorem test_config_divisor_zero :
    let t := { Config.pRef.tabA with divC := 0 }
    t.positive = false ∧ (withTabA t).valid = false := by decide
theorem test_config_proto_init :
    let c := { Config.pRef with protoInit := 0x02 }
    c.initRecognized = false ∧ c.valid = false := by decide

/-! ## Decoding: words written out bit by bit from the field table, VALUE, RSV, TAG, ADDR, OP -/

theorem test_decode_select : decode 0b00000000000000000000000000000000_00000000_00000001_00000000_00000001 = .instr (.select 0x01) := by
  decide
theorem test_decode_reqv : decode 0b00000000000000000000000000000000_00000000_00000000_00011010_00000010 = .instr (.reqv 0x1A) := by
  decide
theorem test_decode_reqi : decode 0b00000000000000000000000000000000_00000000_00000000_00011010_00000011 = .instr (.reqi 0x1A) := by
  decide
theorem test_decode_reqt : decode 0b00000000000000000000000000000000_00000000_00000000_01111111_00000100 = .instr (.reqt 0x7F) := by
  decide
theorem test_decode_reqf : decode 0b00000000000000000000000000000000_00000000_00000000_01111111_00000101 = .instr (.reqf 0x7F) := by
  decide
theorem test_decode_reqc : decode 0b00000000000000000000000000000000_00000000_00000000_10000000_00000110 = .instr (.reqc 0x80) := by
  decide
theorem test_decode_setv :
    decode 0b01000010010000100000000000000000_00000000_00000000_00000101_00000111 = .instr (.setv 5 0x42420000) := by decide
theorem test_decode_seti :
    decode 0b00111111001100110011001100110011_00000000_00000000_00010000_00001000 = .instr (.seti 0x10 0x3F333333) := by decide
theorem test_decode_modelow : decode 0b00000000000000000000000000000000_00000000_00000000_00000011_00001001 = .instr (.modelow 3) := by
  decide
theorem test_decode_modehigh : decode 0b00000000000000000000000000000000_00000000_00000000_00000011_00001010 = .instr (.modehigh 3) := by
  decide
theorem test_decode_modeauto : decode 0b00000000000000000000000000000000_00000000_00000000_00000011_00001011 = .instr (.modeauto 3) := by
  decide
theorem test_decode_enable : decode 0b00000000000000000000000000000000_00000000_00000000_00000011_00001100 = .instr (.enable 3) := by
  decide
theorem test_decode_disable : decode 0b00000000000000000000000000000000_00000000_00000000_10000011_00001101 = .instr (.disable 0x83) := by
  decide
theorem test_decode_parse : decode 0b00000000000000000000000000000000_00000000_00000000_00000000_00001110 = .instr .parse := by
  decide

/-- X5 to X8: a reserved operation code, whatever the other fields hold. -/
theorem test_decode_illegal :
    decode 0 = .illegal 0x00 ∧ decode 0x0F = .illegal 0x0F ∧ decode 0xFF = .illegal 0xFF ∧ decode 0x1A10 = .illegal 0x10 := by
  decide

/-- The five words of 95_test_vectors.md 2.1 that the model refuses, by the field that is not zero. -/
theorem test_decode_reserved :
    decode 0x0000000000011A02 = .reserved .tag ∧ decode 0x0000000001001A02 = .reserved .rsv ∧
      decode 0x000000000000010E = .reserved .addr ∧ decode 0x3F80000000000001 = .reserved .value ∧
      decode 0x0000000000001A01 = .reserved .addr := by decide

theorem test_decodeTableWord :
    decodeTableWord 64 0x4124000000000508 = some (.seti 5 0x41240000) ∧ decodeTableWord 64 0x1A10 = none := by decide

/-! ## The assembler (E5 to E9; a decimal value is rounded to binary32) -/

theorem test_assemble_setv : assemble (.set .setv 5 (.decimal false 485 1)) = some (.cmd 0x4242000000000507) := by decide
theorem test_assemble_seti : assemble (.set .seti 0x10 (.decimal false 7 1)) = some (.cmd 0x3F33333300001008) := by decide
theorem test_assemble_minus_zero : assemble (.set .setv 5 (.decimal true 0 1)) = some (.cmd 0x8000000000000507) := by decide
theorem test_assemble_raw : assemble (.set .setv 5 (.raw 0x7FC00000)) = some (.cmd 0x7FC0000000000507) := by decide
theorem test_assemble_select : assemble (.select .b) = some (.cmd 0x0000000000010001) := by decide
theorem test_assemble_out_of_range : assemble (.addressed .reqv 256) = none := by decide

/-! ## Commands -/

/-- X2. -/
theorem test_select_b : (after (.select 0x01) (ref .A)).map (fun t => (t.proto, t.status)) = some (.B, 0x03) := by decide
/-- X3: a rejected tag leaves PROTO. -/
theorem test_select_rejected : (after (.select 0x07) (ref .A)).map (fun t => (t.proto, t.status)) = some (.A, 0x04) := by decide
/-- Q5, source-fixed bytes. -/
theorem test_reqv_a : sends (.reqv 0xFF) (ref .A) = some ⟨0x825FC000, 8, ⟨0x12, 0x62, 0, 0, 0, 0, 0, 0⟩⟩ := by decide
/-- Q11. -/
theorem test_reqv_b : sends (.reqv 0x1A) (ref .B) = some ⟨0x8180D000, 8, ⟨0xA5, 0x5A, 1, 1, 0, 0, 0, 0⟩⟩ := by decide
/-- Q6. -/
theorem test_reqi_a : sends (.reqi 0x1A) (ref .A) = some ⟨0x82468000, 8, ⟨0x12, 0x30, 0, 0, 0, 0, 0, 0⟩⟩ := by decide
/-- Q12. -/
theorem test_reqi_b : sends (.reqi 0x7F) (ref .B) = some ⟨0x8183F800, 8, ⟨0xA5, 0x5A, 1, 2, 0, 0, 0, 0⟩⟩ := by decide
/-- Q7. -/
theorem test_reqt_a : sends (.reqt 0x1A) (ref .A) = some ⟨0x82468000, 8, ⟨0x12, 0x31, 0, 0, 0, 0, 0, 0⟩⟩ := by decide
/-- Q13. -/
theorem test_reqt_b : sends (.reqt 0x05) (ref .B) = some ⟨0x81802800, 8, ⟨0xA5, 0x5A, 1, 3, 0, 0, 0, 0⟩⟩ := by decide
/-- Q8. -/
theorem test_reqf_a : sends (.reqf 0x7F) (ref .A) = some ⟨0x825FC000, 8, ⟨0x12, 0x32, 0, 0, 0, 0, 0, 0⟩⟩ := by decide
/-- Q14. -/
theorem test_reqf_b : sends (.reqf 0xFF) (ref .B) = some ⟨0x8183F800, 8, ⟨0xA5, 0x5A, 1, 4, 0, 0, 0, 0⟩⟩ := by decide
/-- Q9. -/
theorem test_reqc_a : sends (.reqc 0x00) (ref .A) = some ⟨0x82400000, 8, ⟨0x12, 0x33, 0, 0, 0, 0, 0, 0⟩⟩ := by decide
/-- Q15. -/
theorem test_reqc_b : sends (.reqc 0x80) (ref .B) = some ⟨0x81800000, 8, ⟨0xA5, 0x5A, 1, 5, 0, 0, 0, 0⟩⟩ := by decide
/-- V8: BINARY32 rounds the product up to 700. -/
theorem test_setv_a : sends (.setv 5 0x3F333333) (ref .A) = some ⟨0x82416000, 8, ⟨0x12, 0x40, 0, 0, 0, 0, 0x02, 0xBC⟩⟩ := by
  decide
/-- V12: out of range; the frame is sent and its body is the free value. -/
theorem test_setv_out_of_range :
    (after (.setv 5 0x4A03126F) (ref .A)).map (fun t => (t.txf.data.d1, t.txf.len, t.draws)) = some (0x40, 8, 1) := by decide
/-- V17. -/
theorem test_seti_b :
    sends (.seti 5 0x4A03126E) (ref .B) = some ⟨0x81802C00, 8, ⟨0xA5, 0x5A, 2, 2, 0x0C, 0xCC, 0xCC, 0xC0⟩⟩ := by decide
/-- V7. -/
theorem test_seti_a : sends (.seti 5 0x41240000) (ref .A) = some ⟨0x82416000, 8, ⟨0x12, 0x41, 0, 0, 0, 0, 0x04, 0x01⟩⟩ := by
  decide
/-- M2. -/
theorem test_modelow_a : sends (.modelow 0x83) (ref .A) = some ⟨0x8240E000, 8, ⟨0x12, 0x42, 0, 0, 0, 0, 0, 1⟩⟩ := by decide
/-- M6. -/
theorem test_modehigh_b : sends (.modehigh 3) (ref .B) = some ⟨0x81801C00, 8, ⟨0xA5, 0x5A, 2, 3, 0, 0, 0, 2⟩⟩ := by decide
/-- M4, the request of its start state kept in TXF. -/
theorem test_modeauto_a :
    ((after (.reqv 0x1A) (ref .A)).bind (after (.modeauto 3))).map (fun t => (t.txf.id, t.txv, t.status))
      = some (0x82468000, false, 0x02) := by decide
/-- M7. -/
theorem test_modeauto_b : sends (.modeauto 3) (ref .B) = some ⟨0x81801C00, 8, ⟨0xA5, 0x5A, 2, 3, 0, 0, 0, 0⟩⟩ := by decide
/-- W1. -/
theorem test_enable_a : sends (.enable 3) (ref .A) = some ⟨0x8240E000, 8, ⟨0x12, 0x43, 0, 0, 0, 0, 0, 1⟩⟩ := by decide
/-- W5. -/
theorem test_disable_b : sends (.disable 0x83) (ref .B) = some ⟨0x81801C00, 8, ⟨0xA5, 0x5A, 2, 4, 0, 0, 0, 0xAA⟩⟩ := by decide
/-- D4: a negative temperature. -/
theorem test_parse_a :
    parses (loaded .A 0x8240C000 8 ⟨0x12, 0x31, 0, 0, 0xFF, 0xFF, 0x9E, 0x58⟩)
      = some (0x05, ⟨0x03, 0, 0, 0xFFFFFFE7, 0, 0, 0x09⟩) := by decide
/-- D32: single rounding. -/
theorem test_parse_b :
    parses (loaded .B 0x81802800 8 ⟨0, 0, 1, 5, 1, 0, 0, 1⟩) = some (0x05, ⟨0x05, 0, 0, 0, 0, 0x49CCCCCE, 0x21⟩) := by decide

/-! ## The conversions under the other parameters -/

/-- V8, V11 and V16 under EXACT; BINARY64 gives the same. -/
theorem test_scale_exact :
    [ScaleArith.exact, .binary64].all (fun a => scaledBody a 0x3F333333 1000 == some 699 &&
      scaledBody a 0x4A03126E 1000 == some 2147483500 && scaledBody a 0x4BA3D70A 100 == some 2147483600) = true := by decide
/-- The corner of log 20, v = -f32(0.01), M = 100: the exact product lies above -1, its binary32 rounding is -1. -/
theorem test_scale_rounds_to_minus_one :
    scaledBody .binary32 0xBC23D70A 100 = none ∧ scaledBody .exact 0xBC23D70A 100 = some 0 ∧
      binary32.round ((magnitude32 0xBC23D70A).toRatio.mulNat 100) = some ⟨2 ^ 23, -23⟩ := by decide
/-- D32 under F32_TWO_STEP and F64_THEN_F32. -/
theorem test_conv_variants :
    convFloat .f32TwoStep false 0x01000001 10 = 0x49CCCCCD ∧ convFloat .f64ThenF32 false 0x01000001 10 = 0x49CCCCCE := by
  decide
/-- D15 with a signed raw value. -/
theorem test_conv_signed : convFloat .single true 0xFFFFFFFF 1000 = 0xBA83126F := by decide

/-! ## Witnesses: values that meet the hypotheses of each obligation that has some -/

/-- The command of a word presented on the port answers. -/
abbrev Answers (i : Instr) (s : State) : Prop := (after i s).isSome = true

theorem witness_EncodeOfDecodeIsTheWord : decode 0xFFFFFFFF0000FF07 = .instr (.setv 0xFF 0xFFFFFFFF) := by decide

/-- The operation codes at the edges of the clauses: 0x00, 0x01, 0x0E, 0x0F, 0xFF. -/
theorem witness_DecoderAcceptsExactlyTheTableRows :
    [(0x00 : CmdWord), 0x01, 0x0E, 0x0F, 0xFF].map wellFormedWord = [false, true, true, false, false] := by decide

/-- The tags at the edges of the clauses. -/
theorem witness_SelectWritesProtoOrRejects :
    [(0x00 : Byte), 0x01, 0x02, 0xFF].map Protocol.ofTag = [some .A, some .B, none, none] := by decide

theorem witness_StepRunsTheDecodedCommand :
    (State.withFetchWord (ref .A) 64 0x1A02).pending = [.cmd 0x1A02] ∧ decode 0x1A02 = .instr (.reqv 0x1A) := by decide

theorem witness_ReservedOpcodeOnlyWritesIllegalOp :
    (presented .A [.cmd 0x0]).pending = .cmd 0x0 :: [] ∧ (0x0 : CmdWord).toNat % 256 = 0 ∧
      0x0F ≤ (0x0F : CmdWord).toNat % 256 ∧ 0x0F ≤ (0xFFFFFFFFFFFFFFFF : CmdWord).toNat % 256 := by decide

/-- One refused word for each clause, at operation codes 0x01, 0x02, 0x0E and 0x0D. -/
theorem witness_NonzeroReservedFieldIsRefused :
    [(0x01000001, ReservedField.rsv), (0x00010002, .tag), (0x0000010E, .addr), (0x00000101, .addr),
        (0x10000000D, .value)].all (fun (q : CmdWord × ReservedField) =>
      match step (presented .A [.cmd q.1]) with
      | .refused r => r == .reservedField q.2
      | .next _ => false
      | .fault _ => false) = true := by decide

theorem witness_TransactionSideEffects :
    (presented .A [.read .status, .read .status]).pending = .read .status :: .read .status :: [] ∧
      (presented .A [.rxload Frame.zero, .rxload Frame.zero]).pending = .rxload Frame.zero :: .rxload Frame.zero :: [] ∧
      (after .parse (loaded .A 0x82468000 8 ⟨0x12, 0x62, 0xAB, 0xCD, 0, 1, 0xE2, 0x40⟩)).map (·.rxf.data)
        = some ⟨0x12, 0x62, 0, 0, 0, 1, 0xE2, 0x40⟩ := by decide

theorem witness_ReadReturnsTheNamedRegister :
    (presented .B [.read .proto]).pending = .read .proto :: [] ∧ (loaded .A 0 8 Payload.zero).rxw = true ∧
      readRegister .proto (presented .B [.read .proto]) = .byte 0x01 := by decide

theorem witness_WrittenMarkOfRxf :
    (presented .A [.rxload Frame.zero]).pending = .rxload Frame.zero :: [] ∧ (loaded .A 0 8 Payload.zero).rxw = true ∧
      step (loaded .A 0 8 Payload.zero) = .next (loaded .A 0 8 Payload.zero) ∧ (ref .A).rxw = false :=
  ⟨rfl, rfl, rfl, rfl⟩

theorem witness_StepTakesTheOldestTransaction :
    step (presented .A [.cmd 0xFF, .read .txv]) = .next { presented .A [.read .txv] with status := 0x08 } := rfl

theorem witness_StepKeepsTheConfiguration : ∃ t, step (presented .A [.cmd 0x10001]) = .next t := ⟨_, rfl⟩

theorem witness_StepStopsOnlyOnABrokenHostRule :
    (presented .A [.cmd 0x0E]).pending = .cmd 0x0E :: [] ∧ hostReady (.cmd 0x0E) false = false ∧
      hostReady (.cmd 0x0E) true = true ∧ hostReady (.cmd 0x1000000) false = true ∧ hostReady (.cmd 0x1000002) true = false := by
  decide

theorem witness_HostThatKeepsItsRulesIsNeverStopped :
    let s := presented .A [.rxload Frame.zero, .cmd 0x0E, .cmd 0xFF, .read .status]
    hostKeepsRules s.pending s.rxw = true := by decide

theorem witness_StepKeepsTheHostRules :
    let s := presented .A [.rxload Frame.zero, .cmd 0x0E, .cmd 0xFF, .read .status]
    hostKeepsRules s.pending s.rxw = true ∧ s.pending ≠ [] := by decide

theorem witness_UnrecognizedInitialProtocolIsRefused :
    ({ Config.pRef with protoInit := 0x02 } : Cfg).protoInit = 0x02 ∧
      State.configure Config.pRef = .ok (State.initial Config.pRef) ∧
      State.configure { Config.pRef with protoInit := 0x01 } = .ok (State.initial { Config.pRef with protoInit := 0x01 }) :=
  ⟨rfl, rfl, rfl⟩

theorem witness_StepKeepsTheRunInvariant :
    (presented .A [.cmd 0x1A02]).Inv ∧ ∃ t, step (presented .A [.cmd 0x1A02]) = .next t :=
  ⟨⟨by decide, by decide, .inl rfl, .inl ⟨rfl, rfl⟩⟩, _, rfl⟩

theorem witness_OnlySelectWritesProto : Answers (.enable 3) (ref .A) ∧ ∀ tag, Instr.enable 3 ≠ .select tag :=
  ⟨by decide, by simp⟩

/-- Every case of the match, and a reserved operation code. -/
theorem witness_WritersOfTxfAndTxv :
    Answers (.select 0xFF) (ref .A) ∧ Answers .parse (loaded .A 0 0 Payload.zero) ∧ Answers (.modeauto 0) (ref .A) ∧
      Answers (.modeauto 0xFF) (ref .B) ∧ Answers (.reqc 0xFF) (ref .B) ∧
      step (presented .A [.cmd 0x0F]) = .next { ref .A with status := 0x08 } :=
  ⟨by decide, by decide, by decide, by decide, by decide, rfl⟩

theorem witness_EncoderCommandsTouchOnlyTheirRegisters :
    Answers (.seti 0xFF 0x7FC00000) (ref .B) ∧ (∀ tag, Instr.seti 0xFF 0x7FC00000 ≠ .select tag) ∧
      Instr.seti 0xFF 0x7FC00000 ≠ .parse := ⟨by decide, by simp, by simp⟩

/-- Two states that agree on the inputs and differ in `TXF`, `TXV`, the measurement and `STATUS`. -/
theorem witness_OutcomeDependsOnlyOnProtoAndRxf :
    Expect.sameInputs (loaded .A 0x8240C000 8 ⟨0x12, 0x62, 0, 0, 0, 0, 0, 1⟩)
        { loaded .A 0x8240C000 8 ⟨0x12, 0x62, 0, 0, 0, 0, 0, 1⟩ with
          txf := ⟨1, 8, Payload.zero⟩, txv := true, status := 0x07, meas := ⟨1, 1, 1, 1, 1, 1, 1⟩ } ∧
      Answers .parse (loaded .A 0x8240C000 8 ⟨0x12, 0x62, 0, 0, 0, 0, 0, 1⟩) ∧
      Answers (.reqv 0) (loaded .A 0x8240C000 8 ⟨0x12, 0x62, 0, 0, 0, 0, 0, 1⟩) :=
  ⟨⟨rfl, rfl, rfl, rfl, rfl⟩, by decide, by decide⟩

/-- A set-point in range and one out of range. -/
theorem witness_SetpointsAlwaysSendAControlFrame :
    scaledBody .binary32 0x4A03126E 1000 = some 2147483520 ∧ scaledBody .binary32 0x4A03126F 1000 = none := by decide

/-- Both sides of each bound: 0, -0, 2^31 - 1, 2^31, a fraction above -1, -1, infinity. -/
theorem witness_ExactScalingTruncatesTheProduct :
    scaledBody .exact 0x00000000 1 = some 0 ∧ scaledBody .exact 0x80000000 1 = some 0 ∧
      scaledBody .exact 0x3F800000 2147483647 = some 2147483647 ∧ scaledBody .exact 0x3F800000 2147483648 = none ∧
      scaledBody .exact 0xBF7FFFFF 1 = some 0 ∧ scaledBody .exact 0xBF800000 1 = none ∧
      scaledBody .exact 0x7F800000 1 = none := by decide

/-- The exact product of 0.7 and 1000 as a ratio of naturals, rounded up to 700. -/
theorem witness_RoundedScalingTruncatesTheRoundedProduct :
    (0 : Nat) < 2 ^ 24 ∧ Expect.ratio ⟨11744051 * 1000, 2 ^ 24⟩ = |Expect.real 0x3F333333 * (1000 : Nat)| ∧
      Machine.binary32.round ⟨11744051 * 1000, 2 ^ 24⟩ = some ⟨11468800, -14⟩ ∧
      Machine.binary64.round ⟨11744051 * 1000, 2 ^ 24⟩ = some ⟨11744051000 * 2 ^ 19, -43⟩ := by
  refine ⟨by decide, ?_, by decide, by decide⟩
  have h : BitVec.toNat (0x3F333333 : Word) = 1060320051 := by decide
  have h' : BitVec.toNat ((0x3F333333 : Word) >>> 23) = 126 := by decide
  have h'' : BitVec.getLsbD (0x3F333333 : Word) 31 = false := by decide
  simp only [Expect.ratio, Expect.real, h, h', h'']
  norm_num [abs_of_nonneg]

theorem witness_Binary64ScalingAgreesWithExact : (2 ^ 29 - 1 : Nat) < 2 ^ 29 := by decide

theorem witness_SetpointRoundTripExact :
    (0 : Nat) < 1000 ∧ 0 ≤ Expect.real 0x42420000 ∧ 0 ≤ Expect.real 0x80000000 ∧
      scaledBody .exact 0x42420000 1000 = some 48500 ∧ scaledBody .exact 0x80000000 1000 = some 0 ∧
      (1000 < 2 ^ 29 ∧ scaledBody .binary64 0x42420000 1000 = some 48500) := by
  refine ⟨by decide, ?_, ?_, by decide, by decide, by decide, by decide⟩ <;> simp [Expect.real]

theorem witness_SetpointRoundTripBinary32 :
    (0 : Nat) < 1000 ∧ 0 ≤ Expect.real 0x3F333333 ∧ scaledBody .binary32 0x3F333333 1000 = some 700 := by
  refine ⟨by decide, ?_, by decide⟩
  simp [Expect.real]

theorem witness_ModeAutoFrameOrUnsupported :
    ((ref .B).proto = .B ∧ (ref .B).cfg.autoSupA = false) ∧ ((ref .A).proto = .A ∧ (ref .A).cfg.autoSupA = false) ∧
      (let s : State := { ref .A with cfg := { Config.pRef with autoSupA := true } }
       s.proto = .A ∧ s.cfg.autoSupA = true) ∧
      (let s : State := { ref .B with cfg := { Config.pRef with autoSupA := true } }
       s.proto = .B ∧ s.cfg.autoSupA = true) := by decide

theorem witness_OnlyModeAutoCanBeUnsupported :
    (after (.modeauto 0xFF) (ref .A)).map (·.status) = some 0x02 ∧ (∀ tag, Instr.disable 0 ≠ .select tag) ∧ Instr.disable 0 ≠ .parse ∧ ∀ addr, Instr.disable 0 ≠ .modeauto addr :=
  ⟨by decide, by simp, by simp, by simp⟩

/-- A wrong length at both sides of 8, and a wrong identifier (D10, D11, D13). -/
theorem witness_ParseOfAForeignFrameIsInvalid :
    (loaded .A 0x8240C000 7 Payload.zero).rxw = true ∧ ¬ Expect.accepted (loaded .A 0x8240C000 7 Payload.zero) ∧
      ¬ Expect.accepted (loaded .A 0x8240C000 9 Payload.zero) ∧ ¬ Expect.accepted (loaded .A 0x0240C000 8 Payload.zero) :=
  ⟨rfl, fun h => absurd h.2 (by decide), fun h => absurd h.2 (by decide), fun h => absurd h.1 (by decide)⟩

/-- D8 under A and D25 under B. -/
theorem witness_ParseOfAnUnknownCode :
    (loaded .A 0x82416000 8 ⟨0x12, 0x40, 0, 0, 0, 0, 0xBD, 0x74⟩).rxw = true ∧
      Expect.accepted (loaded .A 0x82416000 8 ⟨0x12, 0x40, 0, 0, 0, 0, 0xBD, 0x74⟩) ∧
      (∀ q ∈ [(0x62#8, Config.pRef.codesB.volt), (Config.pRef.codesA.curr, Config.pRef.codesB.curr),
          (Config.pRef.codesA.temp, Config.pRef.codesB.temp), (Config.pRef.codesA.flags, Config.pRef.codesB.flags),
          (Config.pRef.codesA.cap, Config.pRef.codesB.cap)],
        ¬ Expect.carries (loaded .A 0x82416000 8 ⟨0x12, 0x40, 0, 0, 0, 0, 0xBD, 0x74⟩) q.1 q.2 ∧
          ¬ Expect.carries (loaded .B 0x81802800 8 ⟨0xA5, 0x5A, 0, 0x62, 0, 0, 0x12, 0xF2⟩) q.1 q.2) ∧
      Expect.accepted (loaded .B 0x81802800 8 ⟨0xA5, 0x5A, 0, 0x62, 0, 0, 0x12, 0xF2⟩) := by
  refine ⟨rfl, ⟨by decide, by decide⟩, ?_, ⟨by decide, by decide⟩⟩
  intro q hq
  fin_cases hq <;> refine ⟨?_, ?_⟩
  all_goals first
    | (show ¬ ((0x40#8 : Byte) = _); decide)
    | (show ¬ (((0#8).setWidth 16 <<< 8 ||| (0x62#8).setWidth 16 : Half) = _); decide)

/-- A frame of each read code under A. -/
theorem witness_parse_hypotheses_A :
    Config.pRef.valid = true ∧
      ∀ q ∈ [(0x62#8, Config.pRef.codesB.volt), (Config.pRef.codesA.curr, Config.pRef.codesB.curr),
          (Config.pRef.codesA.temp, Config.pRef.codesB.temp), (Config.pRef.codesA.flags, Config.pRef.codesB.flags),
          (Config.pRef.codesA.cap, Config.pRef.codesB.cap)],
        let s := loaded .A 0x825FC000 8 ⟨0x12, q.1, 0xAB, 0xCD, 0x80, 0, 0, 0⟩
        s.rxw = true ∧ Expect.accepted s ∧ Expect.carries s q.1 q.2 := by
  refine ⟨by decide, fun q _ => ⟨rfl, ⟨?_, rfl⟩, rfl⟩⟩
  show (0x825FC000 : Word) &&& 0x9FE00000 = 0x82400000
  decide

theorem witness_ParseOfAVoltageFrame :
    let s := loaded .B 0x8180D000 8 ⟨0xA5, 0x5A, 1, 1, 0, 0, 0x04, 0xD2⟩
    s.rxw = true ∧ Expect.accepted s ∧ Expect.carries s 0x62 s.cfg.codesB.volt :=
  ⟨rfl, ⟨by decide, rfl⟩, rfl⟩

theorem witness_ParseOfACurrentFrame :
    let s := loaded .B 0x8180D000 8 ⟨0xA5, 0x5A, 1, 2, 0, 0, 0x04, 0xD2⟩
    s.cfg.valid = true ∧ s.rxw = true ∧ Expect.accepted s ∧ Expect.carries s s.cfg.codesA.curr s.cfg.codesB.curr :=
  ⟨by decide, rfl, ⟨by decide, rfl⟩, rfl⟩

theorem witness_ParseOfATemperatureFrame :
    let s := loaded .B 0x81802800 8 ⟨0xA5, 0x5A, 1, 3, 0x80, 0, 0, 0⟩
    s.cfg.valid = true ∧ s.rxw = true ∧ Expect.accepted s ∧ Expect.carries s s.cfg.codesA.temp s.cfg.codesB.temp :=
  ⟨by decide, rfl, ⟨by decide, rfl⟩, rfl⟩

theorem witness_ParseOfAStatusFrame :
    let s := loaded .B 0x81802800 8 ⟨0xA5, 0x5A, 1, 4, 0xDE, 0xAD, 0xBE, 0xEF⟩
    s.cfg.valid = true ∧ s.rxw = true ∧ Expect.accepted s ∧ Expect.carries s s.cfg.codesA.flags s.cfg.codesB.flags :=
  ⟨by decide, rfl, ⟨by decide, rfl⟩, rfl⟩

theorem witness_ParseOfACapabilityFrame :
    let s := loaded .B 0x81802800 8 ⟨0xA5, 0x5A, 1, 5, 0, 0, 0x04, 0xD2⟩
    s.cfg.valid = true ∧ s.rxw = true ∧ Expect.accepted s ∧ Expect.carries s s.cfg.codesA.cap s.cfg.codesB.cap :=
  ⟨by decide, rfl, ⟨by decide, rfl⟩, rfl⟩

/-- An accepted frame and one that is not. -/
theorem witness_ParseCompletesAndTouchesOnlyItsRegisters :
    (loaded .A 0x825FC000 8 Payload.zero).rxw = true ∧ Expect.accepted (loaded .A 0x825FC000 8 Payload.zero) ∧
      ¬ Expect.accepted (loaded .A 0x825FC000 0 Payload.zero) :=
  ⟨rfl, ⟨by decide, rfl⟩, fun h => absurd h.2 (by decide)⟩

theorem witness_ParseMeasuresAtMostOneField : Answers .parse (loaded .A 0x825FC000 8 ⟨0, 0x62, 0, 0, 0, 0, 0, 0⟩) := by decide

theorem witness_ParseIgnoresPreambleAndMarkers :
    (loaded .A 0x8240C000 8 ⟨0, 0x62, 0x11, 0x22, 0, 0, 0x35, 0xE8⟩).rxw = true := rfl

theorem witness_RequestFrameParsesBack : (ref .A).cfg.valid = true ∧ Answers (.reqc 0xFF) (ref .A) ∧ Answers (.reqv 0) (ref .B) := by
  decide

/-- Under A in range, under B out of range. -/
theorem witness_SetpointFrameParsesAsUnknown :
    (ref .A).cfg.valid = true ∧
      (Expect.table (ref .A)).idCtrl &&& (Expect.table (ref .A)).mask = (Expect.table (ref .A)).expect ∧
      (Expect.table (ref .B)).idCtrl &&& (Expect.table (ref .B)).mask = (Expect.table (ref .B)).expect ∧
      Answers (.setv 5 0x42420000) (ref .A) ∧ Answers (.seti 5 0x7FC00000) (ref .B) := by decide

/-- A tie to even and a value that does not fit a significand, in both formats; `halfEven` at both ties. -/
theorem witness_RoundingIsToNearestTiesToEven :
    (0 : Nat) < 3 ∧ binary32.round ⟨2 ^ 24 + 1, 1⟩ = some ⟨2 ^ 23, 1⟩ ∧ binary32.round ⟨2 ^ 24 + 3, 1⟩ = some ⟨2 ^ 23 + 2, 1⟩ ∧
      binary32.round ⟨1, 3⟩ = some ⟨11184811, -25⟩ ∧ binary64.round ⟨2 ^ 53 + 1, 1⟩ = some ⟨2 ^ 52, 1⟩ := by decide

/-- Just below and exactly at half a unit above the largest binary32. -/
theorem witness_RoundingOverflowsFromHalfAUnitAbove :
    (0 : Nat) < 1 ∧ binary32.round ⟨(2 ^ 25 - 1) * 2 ^ 103 - 1, 1⟩ = some ⟨2 ^ 24 - 1, 104⟩ ∧
      binary32.round ⟨(2 ^ 25 - 1) * 2 ^ 103, 1⟩ = none := by decide

theorem witness_SingleConversionIsCorrectlyRounded : (0 : Nat) < 1 ∧ Expect.finite 0x7F7FFFFF := by
  refine ⟨by decide, ?_⟩
  unfold Expect.finite
  decide

/-- A quotient that is no binary64, of a negative raw value. -/
theorem witness_TwoRoundingConversionsRoundTwice :
    (0 : Nat) < 3 ∧ Expect.ratio ⟨1, 3⟩ = |Expect.rawF true 0xFFFFFFFF / (3 : Nat)| ∧
      Machine.binary64.round ⟨1, 3⟩ = some ⟨6004799503160661, -54⟩ := by
  refine ⟨by decide, ?_, by decide⟩
  have h : BitVec.toInt (0xFFFFFFFF : Word) = -1 := by decide
  simp only [Expect.ratio, Expect.rawF, h]
  norm_num [abs_div]

/-- Raw 2^31 and, signed, -2^31. -/
theorem witness_TwoStepConversionAgreesOnShortRawValues :
    (0 : Nat) < 10 ∧ (1 : Nat) < 2 ^ 24 ∧ |Expect.rawF false 0x80000000| = ((1 * 2 ^ 31 : Nat) : ℚ) ∧
      |Expect.rawF true 0x80000000| = ((1 * 2 ^ 31 : Nat) : ℚ) := by
  have h : BitVec.toNat (0x80000000 : Word) = 2147483648 := by decide
  have h' : BitVec.toInt (0x80000000 : Word) = -2147483648 := by decide
  exact ⟨by decide, by decide, by simp only [Expect.rawF, h]; norm_num, by simp only [Expect.rawF, h']; norm_num⟩

end Sys2Proof.Tests
end

/-! Settles O50 and O51: what rounding to a format returns, and when it returns nothing (00_scope.md R13, log 12).

The idea: in units of the last place of `x` the rounded significand is an integer nearest to `x`. A value of the format is
either such an integer too, or it lies below the binade of `x`, whose lower end is such an integer and nearer. -/

namespace Sys2Proof.Proofs.Rounding

open Sys2Proof Sys2Proof.Machine

/-! ## `halfEven` against every other integer -/

theorem one_le_dist_of_ne {m k : Nat} (h : m ≠ k) : (1 : ℚ) ≤ |(m : ℚ) - k| := by
  have hz : (1 : ℤ) ≤ |(m : ℤ) - k| := Int.one_le_abs (by omega)
  exact_mod_cast hz

/-- A tie: both neighbours are half a unit away. -/
theorem halfEven_even_of_tie {n d : Nat} (hd : 0 < d) (h : |(halfEven n d : ℚ) - (n : ℚ) / d| = 1 / 2) :
    halfEven n d % 2 = 0 := by
  have hd' : (d : ℚ) ≠ 0 := by exact_mod_cast hd.ne'
  have hscale : ((halfEven n d : ℚ) - (n : ℚ) / d) * d = halfEven n d * d - n := by field_simp
  have hspec := halfEven_spec n hd
  rcases eq_or_eq_neg_of_abs_eq h with habove | hbelow
  · rw [habove] at hscale
    have htie : 2 * ((halfEven n d : ℚ) * d) = 2 * n + d := by linarith
    have htie' : 2 * (halfEven n d * d) = 2 * n + d := by exact_mod_cast htie
    omega
  · rw [hbelow] at hscale
    have htie : 2 * (n : ℚ) = 2 * (halfEven n d * d) + d := by linarith
    have htie' : 2 * n = 2 * (halfEven n d * d) + d := by exact_mod_cast htie
    omega

/-- No integer is nearer, and where another is as near `halfEven` is even. -/
theorem halfEven_nearest (n : Nat) {d : Nat} (hd : 0 < d) (k : Nat) :
    |(halfEven n d : ℚ) - (n : ℚ) / d| ≤ |(k : ℚ) - (n : ℚ) / d| ∧
      (|(halfEven n d : ℚ) - (n : ℚ) / d| = |(k : ℚ) - (n : ℚ) / d| → halfEven n d ≠ k → halfEven n d % 2 = 0) := by
  have hnear := halfEven_near n hd
  by_cases hk : halfEven n d = k
  · subst hk
    exact ⟨le_rfl, fun _ hne => absurd rfl hne⟩
  · have hone := one_le_dist_of_ne hk
    have htri := abs_sub_le (halfEven n d : ℚ) ((n : ℚ) / d) k
    rw [abs_sub_comm ((n : ℚ) / d) k] at htri
    exact ⟨by linarith, fun htie _ => halfEven_even_of_tie hd (by linarith)⟩

theorem halfEven_le {n d K : Nat} (hd : 0 < d) (h : (n : ℚ) / d < K) : halfEven n d ≤ K := by
  have hnear := (abs_le.mp (halfEven_near n hd)).2
  have hlt : (halfEven n d : ℚ) < (K + 1 : Nat) := by push_cast; linarith
  exact Nat.lt_succ_iff.mp (by exact_mod_cast hlt)

/-- Below an even integer, `halfEven` reaches it exactly from half a unit below. -/
theorem halfEven_eq_even_iff {n d K : Nat} (hd : 0 < d) (hK : K % 2 = 0) (h : (n : ℚ) / d < K) :
    halfEven n d = K ↔ (K : ℚ) - 1 / 2 ≤ (n : ℚ) / d := by
  obtain ⟨hlo, hhi⟩ := abs_le.mp (halfEven_near n hd)
  constructor
  · rintro rfl
    linarith
  · intro hge
    by_contra hne
    have hlt : halfEven n d < K := lt_of_le_of_ne (halfEven_le hd h) hne
    have hlt' : (halfEven n d : ℚ) + 1 ≤ K := by exact_mod_cast hlt
    have hge' : (K : ℚ) - 1 ≤ halfEven n d := by linarith
    have htie : |(halfEven n d : ℚ) - (n : ℚ) / d| = 1 / 2 := by
      rw [abs_of_nonpos (by linarith)]
      linarith
    have heven := halfEven_even_of_tie hd htie
    have hpred : K ≤ halfEven n d + 1 := by exact_mod_cast sub_le_iff_le_add.mp hge'
    omega

/-! ## The rounded significand, in units of the last place -/

/-- The significand `FloatFormat.round` hands to `fit`, in units of the last place of `x`. -/
def roundedSig (fmt : FloatFormat) (x : Ratio) : Nat :=
  halfEven (x.scalePow (-(x.lastPlace fmt))).num (x.scalePow (-(x.lastPlace fmt))).den

/-- `x` in units of its last place. -/
def inUlps (fmt : FloatFormat) (x : Ratio) : ℚ := Expect.ratio x * (2 : ℚ) ^ (-(x.lastPlace fmt))

theorem round_eq_fit {fmt : FloatFormat} {x : Ratio} (hn : x.num ≠ 0) :
    fmt.round x = fmt.fit (roundedSig fmt x) (x.lastPlace fmt) := round_of_pos hn

theorem scalePow_eq_inUlps (fmt : FloatFormat) (x : Ratio) :
    ((x.scalePow (-(x.lastPlace fmt))).num : ℚ) / (x.scalePow (-(x.lastPlace fmt))).den = inUlps fmt x :=
  scalePow_value x _

theorem inUlps_mul (fmt : FloatFormat) (x : Ratio) :
    inUlps fmt x * (2 : ℚ) ^ x.lastPlace fmt = Expect.ratio x := by
  rw [inUlps, mul_assoc, ← zpow_add₀ two_ne_zero, neg_add_cancel, zpow_zero, mul_one]

/-- A distance to `x` and the same distance in units of the last place. -/
theorem dist_mul_ulp (fmt : FloatFormat) (x : Ratio) (k : Nat) :
    |(k : ℚ) * (2 : ℚ) ^ x.lastPlace fmt - Expect.ratio x| = |(k : ℚ) - inUlps fmt x| * (2 : ℚ) ^ x.lastPlace fmt := by
  have hpos : (0 : ℚ) < (2 : ℚ) ^ x.lastPlace fmt := by positivity
  rw [← inUlps_mul fmt x, ← sub_mul, abs_mul, abs_of_pos hpos]

/-- No multiple of the last place is nearer to `x`, and where another is as near the significand is even. -/
theorem roundedSig_nearest (fmt : FloatFormat) {x : Ratio} (hd : 0 < x.den) (k : Nat) :
    |(roundedSig fmt x : ℚ) * (2 : ℚ) ^ x.lastPlace fmt - Expect.ratio x| ≤
        |(k : ℚ) * (2 : ℚ) ^ x.lastPlace fmt - Expect.ratio x| ∧
      (|(roundedSig fmt x : ℚ) * (2 : ℚ) ^ x.lastPlace fmt - Expect.ratio x| =
          |(k : ℚ) * (2 : ℚ) ^ x.lastPlace fmt - Expect.ratio x| →
        roundedSig fmt x ≠ k → roundedSig fmt x % 2 = 0) := by
  have hpos : (0 : ℚ) < (2 : ℚ) ^ x.lastPlace fmt := by positivity
  have hnearest := halfEven_nearest (x.scalePow (-(x.lastPlace fmt))).num (scalePow_den_pos hd (-(x.lastPlace fmt))) k
  rw [scalePow_eq_inUlps] at hnearest
  rw [dist_mul_ulp, dist_mul_ulp, mul_le_mul_iff_left₀ hpos, mul_left_inj' hpos.ne']
  exact hnearest

theorem minExp_le_lastPlace (fmt : FloatFormat) (x : Ratio) : fmt.minExp ≤ x.lastPlace fmt := le_max_left _ _

theorem lastPlace_eq_or (fmt : FloatFormat) (x : Ratio) :
    x.lastPlace fmt = fmt.minExp ∨ x.floorLog2 = x.lastPlace fmt + (fmt.prec - 1) := by
  unfold Ratio.lastPlace
  omega

/-- `x` lies below the end of the binade of its last place. -/
theorem ratio_lt_of_lastPlace (fmt : FloatFormat) {x : Ratio} (hn : x.num ≠ 0) (hd : 0 < x.den) :
    Expect.ratio x < (2 : ℚ) ^ (x.lastPlace fmt + fmt.prec) := by
  have hlog : x.floorLog2 + 1 ≤ x.lastPlace fmt + fmt.prec := by unfold Ratio.lastPlace; omega
  calc Expect.ratio x < (2 : ℚ) ^ (x.floorLog2 + 1) := (floorLog2_spec (Nat.pos_of_ne_zero hn) hd).2
    _ ≤ _ := zpow_le_zpow_right₀ one_le_two hlog

/-- A normal `x` lies at or above the start of the binade of its last place. -/
theorem le_ratio_of_lastPlace {fmt : FloatFormat} {x : Ratio} (hn : x.num ≠ 0) (hd : 0 < x.den)
    (hlast : x.lastPlace fmt ≠ fmt.minExp) : (2 : ℚ) ^ (x.lastPlace fmt + (fmt.prec - 1)) ≤ Expect.ratio x := by
  rw [← (lastPlace_eq_or fmt x).resolve_left hlast]
  exact (floorLog2_spec (Nat.pos_of_ne_zero hn) hd).1

theorem inUlps_lt (fmt : FloatFormat) {x : Ratio} (hn : x.num ≠ 0) (hd : 0 < x.den) :
    inUlps fmt x < (2 ^ fmt.prec : Nat) := by
  have hpos : (0 : ℚ) < (2 : ℚ) ^ x.lastPlace fmt := by positivity
  have hlt := ratio_lt_of_lastPlace fmt hn hd
  rw [← inUlps_mul fmt x, zpow_add₀ two_ne_zero, mul_comm, mul_lt_mul_iff_right₀ hpos, zpow_natCast] at hlt
  exact_mod_cast hlt

theorem roundedSig_le (fmt : FloatFormat) {x : Ratio} (hn : x.num ≠ 0) (hd : 0 < x.den) :
    roundedSig fmt x ≤ 2 ^ fmt.prec :=
  halfEven_le (scalePow_den_pos hd _) (by rw [scalePow_eq_inUlps]; exact inUlps_lt fmt hn hd)

/-! ## Nearest, ties to even -/

/-- A value whose exponent is at least `e` is a multiple of `2 ^ e`. -/
theorem dyad_eq_multiple {d : Dyad} {e : ℤ} (h : e ≤ d.exp) : ∃ k : Nat, Expect.dyad d = (k : ℚ) * (2 : ℚ) ^ e := by
  obtain ⟨n, hn⟩ := Int.le.dest h
  refine ⟨d.sig * 2 ^ n, ?_⟩
  rw [Expect.dyad, ← hn, zpow_add₀ two_ne_zero, zpow_natCast]
  push_cast
  ring

/-- A value of the format finer than the last place of `x` lies below the binade of `x`. -/
theorem dyad_lt_of_exp_lt {fmt : FloatFormat} {d : Dyad} {e : ℤ} (hr : Expect.representable fmt d) (h : d.exp < e) :
    Expect.dyad d < (2 : ℚ) ^ (e + (fmt.prec - 1)) := by
  have hsig : (d.sig : ℚ) < (2 : ℚ) ^ (fmt.prec : ℤ) := by rw [zpow_natCast]; exact_mod_cast hr.1
  calc Expect.dyad d < (2 : ℚ) ^ (fmt.prec : ℤ) * (2 : ℚ) ^ d.exp := mul_lt_mul_of_pos_right hsig (by positivity)
    _ = (2 : ℚ) ^ (fmt.prec + d.exp) := (zpow_add₀ two_ne_zero _ _).symm
    _ ≤ _ := zpow_le_zpow_right₀ one_le_two (by omega)

/-- The rounded significand against any value of the format, not only the multiples of the last place. -/
theorem roundedSig_nearest_representable {fmt : FloatFormat} {x : Ratio} (hp : 0 < fmt.prec) (hn : x.num ≠ 0)
    (hd : 0 < x.den) {d' : Dyad} (hr : Expect.representable fmt d') :
    |(roundedSig fmt x : ℚ) * (2 : ℚ) ^ x.lastPlace fmt - Expect.ratio x| ≤ |Expect.dyad d' - Expect.ratio x| ∧
      (|(roundedSig fmt x : ℚ) * (2 : ℚ) ^ x.lastPlace fmt - Expect.ratio x| = |Expect.dyad d' - Expect.ratio x| →
        (roundedSig fmt x : ℚ) * (2 : ℚ) ^ x.lastPlace fmt ≠ Expect.dyad d' → roundedSig fmt x % 2 = 0) := by
  rcases le_or_gt (x.lastPlace fmt) d'.exp with hcoarse | hfine
  · obtain ⟨k, hk⟩ := dyad_eq_multiple hcoarse
    obtain ⟨hle, heven⟩ := roundedSig_nearest fmt hd k
    rw [hk]
    exact ⟨hle, fun htie hne => heven htie (by rintro rfl; exact hne rfl)⟩
  · have hbelow := dyad_lt_of_exp_lt hr hfine
    have hstart := le_ratio_of_lastPlace hn hd (fmt := fmt) (by have := hr.2.1; omega)
    have hmultiple : (2 : ℚ) ^ (x.lastPlace fmt + (fmt.prec - 1)) =
        ((2 ^ (fmt.prec - 1) : Nat) : ℚ) * (2 : ℚ) ^ x.lastPlace fmt := by
      have hpred : (fmt.prec : ℤ) - 1 = (fmt.prec - 1 : Nat) := by omega
      rw [hpred, add_comm, zpow_add₀ two_ne_zero, zpow_natCast]
      push_cast
      rfl
    have hle := (roundedSig_nearest fmt hd (2 ^ (fmt.prec - 1))).1
    rw [← hmultiple, abs_of_nonpos (sub_nonpos.mpr hstart)] at hle
    have hfar : |Expect.dyad d' - Expect.ratio x| = Expect.ratio x - Expect.dyad d' := by
      rw [abs_of_nonpos (by linarith), neg_sub]
    exact ⟨by linarith, fun htie _ => by linarith⟩

/-- What `fit` returns has the value it was given, is in the format, and is even where the significand was. -/
theorem fit_representable {fmt : FloatFormat} {sig : Nat} {e : ℤ} {d : Dyad} (hp : 1 < fmt.prec)
    (hsig : sig ≤ 2 ^ fmt.prec) (he : fmt.minExp ≤ e) (h : fmt.fit sig e = some d) :
    Expect.dyad d = (sig : ℚ) * (2 : ℚ) ^ e ∧ Expect.representable fmt d ∧ (sig % 2 = 0 → d.sig % 2 = 0) := by
  obtain ⟨hcases, hmax, hval⟩ := fit_eq_some (Nat.lt_of_succ_lt hp) h
  refine ⟨hval, ?_⟩
  rcases hcases with ⟨-, rfl⟩ | ⟨hne, rfl⟩
  · have heven : 2 ^ (fmt.prec - 1) % 2 = 0 := by
      rw [← Nat.dvd_iff_mod_eq_zero]; exact dvd_pow_self 2 (by omega)
    exact ⟨⟨Nat.pow_lt_pow_right one_lt_two (by omega), Int.le_add_one he, hmax⟩, fun _ => heven⟩
  · exact ⟨⟨lt_of_le_of_ne hsig hne, he, hmax⟩, id⟩

theorem ratio_eq_zero {x : Ratio} (hn : x.num = 0) : Expect.ratio x = 0 := by simp [Expect.ratio, hn]

/-- Rounding is to nearest, ties to even, in every format with at least two significand bits and a binade. -/
theorem round_nearest_even {fmt : FloatFormat} (hp : 1 < fmt.prec) (hexp : fmt.minExp ≤ fmt.maxExp) {x : Ratio} {d : Dyad}
    (hd : 0 < x.den) (h : fmt.round x = some d) :
    Expect.representable fmt d ∧
      ∀ d' : Dyad, Expect.representable fmt d' →
        |Expect.dyad d - Expect.ratio x| ≤ |Expect.dyad d' - Expect.ratio x| ∧
          (|Expect.dyad d - Expect.ratio x| = |Expect.dyad d' - Expect.ratio x| → Expect.dyad d ≠ Expect.dyad d' →
            d.sig % 2 = 0) := by
  by_cases hn : x.num = 0
  · obtain rfl := Option.some.inj ((round_of_zero hn).symm.trans h)
    have hexact : Expect.dyad ⟨0, fmt.minExp⟩ = Expect.ratio x := by simp [ratio_eq_zero hn, Expect.dyad]
    refine ⟨⟨Nat.two_pow_pos _, le_rfl, hexp⟩, fun d' _ => ⟨?_, fun _ _ => rfl⟩⟩
    rw [hexact, sub_self, abs_zero]
    exact abs_nonneg _
  · obtain ⟨hval, hrep, heven⟩ :=
      fit_representable hp (roundedSig_le fmt hn hd) (minExp_le_lastPlace fmt x) ((round_eq_fit hn).symm.trans h)
    refine ⟨hrep, fun d' hr => ?_⟩
    obtain ⟨hle, htie⟩ := roundedSig_nearest_representable (Nat.lt_of_succ_lt hp) hn hd hr
    rw [hval]
    exact ⟨hle, fun heq hne => heven (htie heq hne)⟩

/-- Settles O50: the rounded significand is nearest among the multiples of the last place, and the values of the format
that are no such multiples lie below the binade of `x`. -/
theorem roundingIsToNearestTiesToEven : Obligations.RoundingIsToNearestTiesToEven := by
  unfold Obligations.RoundingIsToNearestTiesToEven
  rintro fmt (rfl | rfl) x d hd h
  · exact round_nearest_even (by decide) (by decide) hd h
  · exact round_nearest_even (by decide) (by decide) hd h

/-! ## Overflow -/

theorem fit_eq_none_iff {fmt : FloatFormat} {sig : Nat} {e : ℤ} :
    fmt.fit sig e = none ↔ fmt.maxExp < e ∨ (e = fmt.maxExp ∧ sig = 2 ^ fmt.prec) := by
  unfold FloatFormat.fit
  by_cases hs : sig = 2 ^ fmt.prec
  · simp [hs]; omega
  · simp [hs]

/-- The significand carries into the next binade exactly from half a unit below it: `2 ^ prec` is the even neighbour. -/
theorem roundedSig_eq_two_pow_iff {fmt : FloatFormat} {x : Ratio} (hp : 0 < fmt.prec) (hn : x.num ≠ 0) (hd : 0 < x.den) :
    roundedSig fmt x = 2 ^ fmt.prec ↔ ((2 ^ fmt.prec : Nat) : ℚ) - 1 / 2 ≤ inUlps fmt x := by
  have heven : 2 ^ fmt.prec % 2 = 0 := by rw [← Nat.dvd_iff_mod_eq_zero]; exact dvd_pow_self 2 hp.ne'
  have hlt := inUlps_lt fmt hn hd
  rw [← scalePow_eq_inUlps] at hlt ⊢
  exact halfEven_eq_even_iff (scalePow_den_pos hd _) heven hlt

/-- Half a unit above the largest finite value: the least magnitude that overflows. -/
def overflowBound (fmt : FloatFormat) : ℚ := ((2 ^ (fmt.prec + 1) - 1 : ℕ) : ℚ) * (2 : ℚ) ^ (fmt.maxExp - 1)

theorem overflowBound_eq (fmt : FloatFormat) :
    overflowBound fmt = (((2 ^ fmt.prec : Nat) : ℚ) - 1 / 2) * (2 : ℚ) ^ fmt.maxExp := by
  rw [overflowBound, Nat.cast_sub Nat.one_le_two_pow, zpow_sub_one₀ two_ne_zero, pow_succ]
  push_cast
  ring

theorem overflowBound_pos (fmt : FloatFormat) : 0 < overflowBound fmt := by
  have hone : (1 : ℚ) ≤ (2 ^ fmt.prec : Nat) := by exact_mod_cast Nat.one_le_two_pow
  rw [overflowBound_eq]
  exact mul_pos (by linarith) (by positivity)

/-- The bound lies in the largest binade: at or above its start, and below its end. -/
theorem overflowBound_lt (fmt : FloatFormat) : overflowBound fmt < (2 : ℚ) ^ (fmt.maxExp + fmt.prec) := by
  have hpos : (0 : ℚ) < (2 : ℚ) ^ fmt.maxExp := by positivity
  rw [overflowBound_eq, add_comm, zpow_add₀ two_ne_zero, zpow_natCast]
  push_cast
  gcongr
  linarith

theorem le_overflowBound (fmt : FloatFormat) : (2 : ℚ) ^ (fmt.maxExp - 1 + fmt.prec) ≤ overflowBound fmt := by
  have hone : (1 : ℚ) ≤ 2 ^ fmt.prec := one_le_pow₀ one_le_two
  rw [overflowBound, add_comm, zpow_add₀ two_ne_zero, zpow_natCast, Nat.cast_sub Nat.one_le_two_pow, pow_succ]
  push_cast
  gcongr
  linarith

/-- Rounding overflows exactly from the bound on, in every format with a significand bit and a binade: the cases are `x`
below, in and above the largest binade. -/
theorem round_eq_none_iff {fmt : FloatFormat} (hp : 0 < fmt.prec) (hexp : fmt.minExp ≤ fmt.maxExp) {x : Ratio}
    (hd : 0 < x.den) : fmt.round x = none ↔ overflowBound fmt ≤ Expect.ratio x := by
  by_cases hn : x.num = 0
  · simp [round_of_zero hn, ratio_eq_zero hn, overflowBound_pos fmt]
  rw [round_eq_fit hn, fit_eq_none_iff]
  rcases lt_trichotomy (x.lastPlace fmt) fmt.maxExp with hlt | heq | hgt
  · have hsmall : Expect.ratio x < overflowBound fmt :=
      calc Expect.ratio x < (2 : ℚ) ^ (x.lastPlace fmt + fmt.prec) := ratio_lt_of_lastPlace fmt hn hd
        _ ≤ (2 : ℚ) ^ (fmt.maxExp - 1 + fmt.prec) := zpow_le_zpow_right₀ one_le_two (by omega)
        _ ≤ overflowBound fmt := le_overflowBound fmt
    simp [hlt.ne, hlt.not_gt, hsmall]
  · have hpos : (0 : ℚ) < (2 : ℚ) ^ x.lastPlace fmt := by positivity
    rw [overflowBound_eq, ← heq, ← inUlps_mul fmt x, mul_le_mul_iff_left₀ hpos, ← roundedSig_eq_two_pow_iff hp hn hd]
    simp
  · have hlarge : overflowBound fmt ≤ Expect.ratio x :=
      calc overflowBound fmt ≤ (2 : ℚ) ^ (fmt.maxExp + fmt.prec) := (overflowBound_lt fmt).le
        _ ≤ (2 : ℚ) ^ (x.lastPlace fmt + (fmt.prec - 1)) := zpow_le_zpow_right₀ one_le_two (by omega)
        _ ≤ Expect.ratio x := le_ratio_of_lastPlace hn hd (by omega)
    simp [hgt, hlarge]

/-- Settles O51: in the largest binade the significand carries exactly from the bound on; below it nothing overflows, and
above it everything does. -/
theorem roundingOverflowsFromHalfAUnitAbove : Obligations.RoundingOverflowsFromHalfAUnitAbove := by
  unfold Obligations.RoundingOverflowsFromHalfAUnitAbove
  rintro fmt (rfl | rfl) x hd
  · exact round_eq_none_iff (by decide) (by decide) hd
  · exact round_eq_none_iff (by decide) (by decide) hd

end Sys2Proof.Proofs.Rounding

/-! The decoder at the port: which words decode to a command, and which are ILLEGAL (30_encoding.md R71, R73, R100). -/

namespace Sys2Proof.Proofs.PortWords

open Sys2Proof Sys2Proof.Machine

/-- A field that a mask keeps whole is the field of the masked word. -/
theorem extractLsb'_of_masked {w mask pat : CmdWord} {start len : Nat} (h : w &&& mask = pat)
    (hm : mask.extractLsb' start len = BitVec.allOnes len) : w.extractLsb' start len = pat.extractLsb' start len := by
  rw [← h, BitVec.extractLsb'_and, hm, BitVec.and_allOnes]

/-- Each field that a row's mask keeps whole is, in a word of the row, that of the row's pattern: the operation code, and
zero (R71, R73). -/
theorem fields_of_row {w mask : CmdWord} {op : Byte} (h : w &&& mask = packWord 0 0 0 op) :
    (opOf mask = 0xFF → opOf w = op) ∧ (addrOf mask = 0xFF → addrOf w = 0) ∧ (tagOf mask = 0xFF → tagOf w = 0) ∧
      (rsvOf mask = 0xFF → rsvOf w = 0) ∧ (valueOf mask = 0xFFFFFFFF → valueOf w = 0) := by
  obtain ⟨hop, haddr, htag, hrsv, hvalue⟩ := packWord_fields 0 0 0 op
  exact ⟨fun hm => (extractLsb'_of_masked h hm).trans hop, fun hm => (extractLsb'_of_masked h hm).trans haddr,
    fun hm => (extractLsb'_of_masked h hm).trans htag, fun hm => (extractLsb'_of_masked h hm).trans hrsv,
    fun hm => (extractLsb'_of_masked h hm).trans hvalue⟩

/-- A word of a row that uses `ADDR` alone decodes to that row's command (R71). -/
theorem decode_of_addr_row {w : CmdWord} {op : Byte} {mk : Byte → Instr}
    (hrow : w &&& 0xFFFFFFFFFFFF00FF = packWord 0 0 0 op) (hdec : opOf w = op → decode w = decodeAddr mk w) :
    decode w = .instr (mk (addrOf w)) := by
  obtain ⟨hop, -, htag, hrsv, hvalue⟩ := fields_of_row hrow
  rw [hdec (hop (by decide)), decodeAddr, checkReserved_eq_instr]
  simp [htag (by decide), hrsv (by decide), hvalue (by decide)]

/-- A word of a row that uses `ADDR` and `VALUE` decodes to that row's command (R71). -/
theorem decode_of_addrValue_row {w : CmdWord} {op : Byte} {mk : Byte → Word → Instr}
    (hrow : w &&& 0x00000000FFFF00FF = packWord 0 0 0 op) (hdec : opOf w = op → decode w = decodeAddrValue mk w) :
    decode w = .instr (mk (addrOf w) (valueOf w)) := by
  obtain ⟨hop, -, htag, hrsv, -⟩ := fields_of_row hrow
  rw [hdec (hop (by decide)), decodeAddrValue, checkReserved_eq_instr]
  simp [htag (by decide), hrsv (by decide)]

theorem decode_of_select_row {w : CmdWord} (hrow : w &&& 0xFFFFFFFFFF00FFFF = packWord 0 0 0 0x01) :
    decode w = .instr (.select (tagOf w)) := by
  obtain ⟨hop, haddr, -, hrsv, hvalue⟩ := fields_of_row hrow
  have hdec : decode w = decodeSelect w := by simp [decode, hop (by decide)]
  rw [hdec, decodeSelect, checkReserved_eq_instr]
  simp [haddr (by decide), hrsv (by decide), hvalue (by decide)]

/-- PARSE uses no field, so its row holds one word (R71). -/
theorem eq_of_parse_row {w : CmdWord} (hrow : w &&& 0xFFFFFFFFFFFFFFFF = 0x0E) : w = 0x0E :=
  BitVec.and_allOnes.symm.trans hrow

/-- Every word of the opcode table is some command, PARSE for its own operation code alone (R71). -/
theorem decode_of_wellFormed {w : CmdWord} (h : wellFormedWord w = true) :
    ∃ i, decode w = .instr i ∧ (i = .parse → opOf w = 0x0E) := by
  obtain ⟨row, hmem, hcovers⟩ := List.any_eq_true.mp h
  have hrow : w &&& row.mask = row.pattern := by simpa [OpcodeRow.covers] using hcovers
  simp only [opcodeRows, List.mem_cons, List.not_mem_nil, or_false] at hmem
  rcases hmem with rfl | rfl | rfl | rfl | rfl | rfl | rfl | rfl | rfl | rfl | rfl | rfl | rfl | rfl
  · exact ⟨_, decode_of_select_row hrow, by simp⟩
  · exact ⟨_, decode_of_addr_row (op := 0x02) (mk := .reqv) hrow fun e => by simp [decode, e], by simp⟩
  · exact ⟨_, decode_of_addr_row (op := 0x03) (mk := .reqi) hrow fun e => by simp [decode, e], by simp⟩
  · exact ⟨_, decode_of_addr_row (op := 0x04) (mk := .reqt) hrow fun e => by simp [decode, e], by simp⟩
  · exact ⟨_, decode_of_addr_row (op := 0x05) (mk := .reqf) hrow fun e => by simp [decode, e], by simp⟩
  · exact ⟨_, decode_of_addr_row (op := 0x06) (mk := .reqc) hrow fun e => by simp [decode, e], by simp⟩
  · exact ⟨_, decode_of_addrValue_row (op := 0x07) (mk := .setv) hrow fun e => by simp [decode, e], by simp⟩
  · exact ⟨_, decode_of_addrValue_row (op := 0x08) (mk := .seti) hrow fun e => by simp [decode, e], by simp⟩
  · exact ⟨_, decode_of_addr_row (op := 0x09) (mk := .modelow) hrow fun e => by simp [decode, e], by simp⟩
  · exact ⟨_, decode_of_addr_row (op := 0x0A) (mk := .modehigh) hrow fun e => by simp [decode, e], by simp⟩
  · exact ⟨_, decode_of_addr_row (op := 0x0B) (mk := .modeauto) hrow fun e => by simp [decode, e], by simp⟩
  · exact ⟨_, decode_of_addr_row (op := 0x0C) (mk := .enable) hrow fun e => by simp [decode, e], by simp⟩
  · exact ⟨_, decode_of_addr_row (op := 0x0D) (mk := .disable) hrow fun e => by simp [decode, e], by simp⟩
  · cases eq_of_parse_row hrow; exact ⟨.parse, by decide, fun _ => by decide⟩

/-- A reserved operation code is ILLEGAL whatever the other fields hold (R100, R233). -/
theorem decode_of_not_usedOpcode {w : CmdWord} (h : usedOpcode (opOf w) = false) : decode w = .illegal (opOf w) := by
  unfold decode
  split
  case h_15 => rfl
  all_goals next e => rw [e] at h; exact absurd h (by decide)

theorem opOf_toNat (w : CmdWord) : (opOf w).toNat = w.toNat % 256 := by simp [opOf]

/-- The reserved operation codes by number: 0x00 and 0x0F to 0xFF (R100). -/
theorem usedOpcode_eq_false {w : CmdWord} (h : w.toNat % 256 = 0 ∨ 0x0F ≤ w.toNat % 256) :
    usedOpcode (opOf w) = false := by
  rw [← opOf_toNat] at h
  simp only [usedOpcode, Bool.and_eq_false_iff, decide_eq_false_iff_not, BitVec.le_def, BitVec.reduceToNat]
  omega

/-- A CMD with a reserved operation code runs ILLEGAL (R100, R125). -/
theorem runTransaction_of_not_usedOpcode {w : CmdWord} (s : State) (h : usedOpcode (opOf w) = false) :
    runTransaction (.cmd w) s = .next (illegalCommand s) := by
  simp only [runTransaction, runCommand, decode_of_not_usedOpcode h]

end Sys2Proof.Proofs.PortWords

/-! Settles O55, O10, O12 and O9: what a transaction leaves behind. A host that keeps its rules presents nothing a step stops
on, and the rules are read from the `RXW` that `rxwAfter` counts (10_state.md R27, 70_reset_and_hazards.md R253). -/

namespace Sys2Proof.Proofs.HostPort

open Sys2Proof Sys2Proof.Machine Sys2Proof.Proofs.PortWords

/-! ## The host's rules -/

/-- A transaction the host may issue completes (R73, R100, R253). -/
theorem runTransaction_completes {x : Transaction} {s : State} (h : hostReady x s.rxw = true) :
    ∃ t, runTransaction x s = .next t := by
  cases x with
  | rxload f => exact ⟨_, rfl⟩
  | read r => exact ⟨_, rfl⟩
  | cmd w =>
    simp only [hostReady, Bool.and_eq_true, Bool.or_eq_true, Bool.not_eq_true', bne_iff_ne] at h
    obtain ⟨hrow | hreserved, hparse⟩ := h
    · obtain ⟨i, hdec, hi⟩ := decode_of_wellFormed hrow
      simp only [runTransaction, runCommand, hdec]
      exact (exec_next_iff i s).mpr (hparse.imp_left fun hne e => hne (hi e))
    · exact ⟨_, runTransaction_of_not_usedOpcode s hreserved⟩

/-- What every transaction that answers leaves: the configuration, the rest of the list, and `RXW` as the host's rules
count it (R27, R57, R252). -/
theorem step_of_transaction_keeps {s t : State} {x : Transaction} {rest : List Transaction} (hp : s.pending = x :: rest)
    (h : step s = .next t) : t.cfg = s.cfg ∧ t.pending = rest ∧ t.rxw = rxwAfter x s.rxw := by
  rcases step_cases h with ⟨hnil, -⟩ | ⟨y, rest', hp', hx⟩
  · cases hnil.symm.trans hp
  obtain ⟨rfl, rfl⟩ := List.cons.inj (hp'.symm.trans hp)
  rcases hx with ⟨_, _, rfl, -, hi⟩ | ⟨_, _, rfl, -, rfl⟩ | ⟨_, rfl, rfl⟩ | ⟨_, rfl, rfl⟩
  · obtain ⟨hrxw, hcfg, hpending, -⟩ := exec_keeps hi
    exact ⟨hcfg, hpending, hrxw⟩
  all_goals exact ⟨rfl, rfl, rfl⟩

/-- Settles O55: the first transaction completes, and the rules are read on from the `RXW` it leaves. -/
theorem stepKeepsTheHostRules : Obligations.StepKeepsTheHostRules := by
  unfold Obligations.StepKeepsTheHostRules
  intro s hrules hne
  obtain ⟨x, rest, hp⟩ := List.exists_cons_of_ne_nil hne
  rw [hp, hostKeepsRules, Bool.and_eq_true] at hrules
  obtain ⟨hready, hrest⟩ := hrules
  obtain ⟨t, ht⟩ := runTransaction_completes (s := { s with pending := rest }) hready
  have hstep : step s = .next t := (step_of_pending hp).trans ht
  obtain ⟨-, hpending, hrxw⟩ := step_of_transaction_keeps hp hstep
  exact ⟨t, hstep, by rw [hpending, hrxw]; exact hrest⟩

/-! ## The written mark, the configuration, READ -/

theorem rxwAfter_true (x : Transaction) : rxwAfter x true = true := by cases x <;> rfl

/-- No step changes the configuration or clears the written mark, with or without a transaction presented. -/
theorem step_keeps {s t : State} (h : step s = .next t) : t.cfg = s.cfg ∧ (s.rxw = true → t.rxw = true) := by
  cases hp : s.pending with
  | nil =>
    obtain rfl : s = t := by simpa [step_of_idle hp] using h
    exact ⟨rfl, id⟩
  | cons x rest =>
    obtain ⟨hcfg, -, hrxw⟩ := step_of_transaction_keeps hp h
    exact ⟨hcfg, fun hw => by rw [hrxw, hw, rxwAfter_true]⟩

/-- Settles O12: the half of `step_keeps` that speaks of the configuration. -/
theorem stepKeepsTheConfiguration : Obligations.StepKeepsTheConfiguration :=
  fun _ _ h => (step_keeps h).1

/-- Settles O10: reset, RXLOAD and the unwritten PARSE by what they compute, and `step_keeps` for every other step. -/
theorem writtenMarkOfRxf : Obligations.WrittenMarkOfRxf :=
  ⟨rfl, fun _ _ _ hp => step_of_pending hp, fun _ _ h => (step_keeps h).2,
    fun s hw => by simp [exec, execParse, hw]⟩

/-- Settles O9: a READ answers `readRegister` of its name, case by case the register. -/
theorem readReturnsTheNamedRegister : Obligations.ReadReturnsTheNamedRegister := by
  unfold Obligations.ReadReturnsTheNamedRegister
  intro s rest r v hv hp
  have hread : readRegister r { s with pending := rest } = v := by
    rcases hv with hv | ⟨hw, rfl, rfl⟩
    · simp only [List.mem_cons, Prod.mk.injEq, List.not_mem_nil, or_false] at hv
      rcases hv with ⟨rfl, rfl⟩ | ⟨rfl, rfl⟩ | ⟨rfl, rfl⟩ | ⟨rfl, rfl⟩ | ⟨rfl, rfl⟩ | ⟨rfl, rfl⟩ | ⟨rfl, rfl⟩ |
        ⟨rfl, rfl⟩ | ⟨rfl, rfl⟩ | ⟨rfl, rfl⟩ | ⟨rfl, rfl⟩ <;> rfl
    · simp [readRegister, hw]
  rw [step_of_pending hp, ← hread]
  rfl

end Sys2Proof.Proofs.HostPort

/-! Settles O18, O19, O46 and O22: what the commands write into `TXF`, `TXV`, `STATUS` and the measurement registers. Every
frame sent is a generated one because a checked template leaves its address field clear (30_encoding.md R81, R84), and every
PARSE leaves one of the decoder's three answers (43_decoder.md R199). -/

namespace Sys2Proof.Proofs.Registers

open Sys2Proof Sys2Proof.Machine Sys2Proof.Proofs.PortWords

/-! ## Frames -/

/-- The address bits of an identifier lie inside the address field (R80). -/
theorem addrBits_outside_addrField (p : Protocol) (a : BitVec 7) :
    (a.setWidth 32 <<< addrLsb p) &&& ~~~addrField p = 0 := by
  revert a; cases p <;> decide

theorem getLsbD_31_not_addrField (p : Protocol) : (~~~addrField p).getLsbD 31 = true := by cases p <;> decide

/-- Outside the address field a built identifier is its template, where the template leaves that field clear (R81). -/
theorem buildId_outside_addrField {p : Protocol} {template : Word} (addr : Byte) (hclear : template &&& addrField p = 0) :
    buildId p template addr &&& ~~~addrField p = template := by
  have hkeep : template &&& ~~~addrField p = template :=
    calc template &&& ~~~addrField p = (template &&& addrField p) ||| (template &&& ~~~addrField p) := by simp [hclear]
      _ = template := by rw [← BitVec.and_or_distrib_left, BitVec.or_not_self, BitVec.and_allOnes]
  rw [buildId, BitVec.and_or_distrib_right, addrBits_outside_addrField, BitVec.and_assoc, BitVec.and_self, hkeep]
  simp

theorem buildId_getLsbD_31 {p : Protocol} {template : Word} (addr : Byte) (h : template.getLsbD 31 = true) :
    (buildId p template addr).getLsbD 31 = true := by
  rw [buildId, BitVec.getLsbD_or, BitVec.getLsbD_and, h, getLsbD_31_not_addrField]
  rfl

/-- Every frame built from a template of its protocol is a generated frame, once the configuration is checked
(R77, R78, R81, R85, R86). -/
theorem frameOf_generated {c : Cfg} (hc : c.valid = true) (p : Protocol) {template : Word} (code : Half) (body : Word)
    (addr : Byte) (ht : template = (tableOf c p).idRead ∨ template = (tableOf c p).idCtrl) :
    GeneratedBy c p (frameOf c p template code body addr) := by
  obtain ⟨⟨hread31, hctrl31⟩, ⟨hread, hctrl⟩, -⟩ := table_checks (valid_table hc p)
  have h31 : template.getLsbD 31 = true := by rcases ht with rfl | rfl <;> assumption
  have hclear : template &&& addrField p = 0 := by rcases ht with rfl | rfl <;> assumption
  refine ⟨rfl, buildId_getLsbD_31 addr h31, ?_, ?_⟩
  · simpa only [frameOf, buildId_outside_addrField addr hclear] using ht
  · cases p
    · exact ⟨rfl, rfl, rfl⟩
    · exact ⟨rfl, rfl⟩

/-! ## The measurement of a PARSE -/

theorem measurementOf_wellShaped (c : Cfg) (p : Protocol) (x : MeasField) (a : BitVec 7) (r : Word) :
    (measurementOf c p x a r).WellShaped := by
  obtain ⟨haddr, hp, hzero⟩ := measurementOf_spec c p x a r
  exact .inr ⟨x, hp, by simp [haddr], hzero⟩

theorem parseFrame_wellShaped (c : Cfg) (p : Protocol) (f : Frame) : (parseFrame c p f).meas.WellShaped := by
  rcases parseFrame_cases c p f with ⟨-, e⟩ | ⟨-, -, e⟩ | ⟨-, x, -, e⟩ <;> rw [e]
  · exact .inl rfl
  · exact .inl rfl
  · exact measurementOf_wellShaped c p x _ _

theorem parseFrame_legalStatus (c : Cfg) (p : Protocol) (f : Frame) : legalStatus (parseFrame c p f).status = true := by
  rcases parseFrame_cases c p f with ⟨-, e⟩ | ⟨-, -, e⟩ | ⟨-, x, -, e⟩ <;> rw [e] <;> rfl

/-- Settles O46: the decoder's three answers; the accepted one is the measurement of one field. -/
theorem parseMeasuresAtMostOneField : Obligations.ParseMeasuresAtMostOneField := by
  unfold Obligations.ParseMeasuresAtMostOneField
  intro s t h
  obtain ⟨-, rfl⟩ := execParse_eq_next.mp h
  simp only [takeParsed_status, takeParsed_meas]
  rcases parseFrame_cases s.cfg s.proto s.rxf with ⟨-, e⟩ | ⟨-, -, e⟩ | ⟨-, x, -, e⟩ <;> rw [e]
  · exact .inl ⟨.inr rfl, rfl⟩
  · exact .inl ⟨.inl rfl, rfl⟩
  · obtain ⟨haddr, hp, hzero⟩ := measurementOf_spec s.cfg s.proto x (idAddr s.proto s.rxf.id) (rawValue s.rxf.data)
    refine .inr ⟨rfl, ?_, (pAddr ||| pField x, x), by cases x <;> decide, hp, hzero⟩
    rw [haddr, BitVec.toNat_setWidth]
    omega

/-! ## The run invariant -/

/-- A command keeps the invariant: a PARSE rewrites the measurement, an encoder command `TXF`, each in its own shape. -/
theorem exec_keeps_inv {i : Instr} {s t : State} (hs : s.Inv) (h : exec i s = .next t) : t.Inv := by
  obtain ⟨hcfg, hstatus, hmeas, htxf⟩ := hs
  rcases exec_cases h with ⟨tag, -, rfl⟩ | ⟨-, -, rfl⟩ | ⟨_, -, rfl⟩ | ⟨_, code, body, addr, _, ht, -, -, rfl⟩
  · rw [selectProtocol_keeps]
    refine ⟨hcfg, ?_, hmeas, htxf⟩
    rcases selectProtocol_status tag s with e | e <;> simp only [e] <;> rfl
  · exact ⟨hcfg, parseFrame_legalStatus .., parseFrame_wellShaped .., htxf⟩
  · exact ⟨hcfg, rfl, hmeas, htxf.imp (fun ⟨hf, _⟩ => ⟨hf, rfl⟩) id⟩
  · exact ⟨hcfg, rfl, hmeas, .inr ⟨s.proto, frameOf_generated hcfg s.proto code body addr ht⟩⟩

/-- Settles O19: a step is a command, ILLEGAL, an RXLOAD or a READ; the last three touch none of the invariant's registers
but `STATUS`. -/
theorem stepKeepsTheRunInvariant : Obligations.StepKeepsTheRunInvariant := by
  unfold Obligations.StepKeepsTheRunInvariant
  intro s t hs h
  rcases step_cases h with ⟨-, rfl⟩ | ⟨_, rest, -, hx⟩
  · exact hs
  have hs' : ({ s with pending := rest } : State).Inv := hs
  rcases hx with ⟨_, _, -, -, hi⟩ | ⟨_, _, -, -, rfl⟩ | ⟨_, -, rfl⟩ | ⟨_, -, rfl⟩
  · exact exec_keeps_inv hs' hi
  · obtain ⟨hcfg, -, hmeas, htxf⟩ := hs
    exact ⟨hcfg, rfl, hmeas, htxf⟩
  · exact hs
  · exact hs

/-- Settles O18: the open configuration comes with the proof of its checks, and every register starts at zero. -/
theorem resetMeetsTheRunInvariant : Obligations.ResetMeetsTheRunInvariant :=
  ⟨Config.chosen.ok, by decide, .inl rfl, .inl ⟨rfl, rfl⟩⟩

/-! ## The writers of `TXF` and `TXV` -/

/-- Settles O22: the cases of a command, and ILLEGAL for a reserved operation code. -/
theorem writersOfTxfAndTxv : Obligations.WritersOfTxfAndTxv := by
  unfold Obligations.WritersOfTxfAndTxv
  refine ⟨fun i s t h => ?_, fun s t w rest hp hop h => ?_⟩
  · rcases exec_cases h with ⟨tag, rfl, rfl⟩ | ⟨rfl, -, rfl⟩ | ⟨addr, rfl, rfl⟩ | ⟨_, _, _, _, _, -, hsel, hparse, rfl⟩
    · rw [selectProtocol_keeps]; exact ⟨rfl, rfl⟩
    · exact ⟨rfl, rfl⟩
    · exact .inr ⟨rfl, rfl, rfl⟩
    · cases i with
      | select tag => exact absurd rfl (hsel tag)
      | parse => exact absurd rfl hparse
      | modeauto addr => exact .inl ⟨rfl, rfl⟩
      | _ => exact ⟨rfl, rfl⟩
  · rw [step_of_pending hp, runTransaction_of_not_usedOpcode _ (usedOpcode_eq_false hop)] at h
    cases h
    exact ⟨rfl, rfl⟩

end Sys2Proof.Proofs.Registers

/-! Settles O24: the shared operations of the encoder, the dispatcher and the decoder read only `PROTO`, `RXF` and `RXW`, the
configuration and the model's counter, so each has the same outcome on two states that agree on these (10_state.md R32). -/

namespace Sys2Proof.Proofs.Outcome

open Sys2Proof Sys2Proof.Machine

/-- Two results of one command that agree on the outcome code, on the frame where one was sent, and on everything a later
command may depend on. -/
def SameOutcome (t₁ t₂ : State) : Prop :=
  Expect.sameInputs t₁ t₂ ∧ t₁.status = t₂.status ∧ (t₁.status = 0x01 → t₁.txf = t₂.txf ∧ t₁.txv = t₂.txv)

section
variable {s₁ s₂ : State}

theorem sendFrame_sameOutcome (f : Frame) (h : Expect.sameInputs s₁ s₂) :
    SameOutcome (sendFrame f s₁) (sendFrame f s₂) :=
  ⟨h, rfl, fun _ => ⟨rfl, rfl⟩⟩

theorem requestFrame_sameOutcome (x : MeasField) (addr : Byte) (h : Expect.sameInputs s₁ s₂) :
    SameOutcome (requestFrame x addr s₁) (requestFrame x addr s₂) := by
  have ⟨hproto, _, _, hcfg, _⟩ := h
  rw [requestFrame_eq, requestFrame_eq, hproto, hcfg]
  exact sendFrame_sameOutcome _ h

theorem controlFrame_sameOutcome (code : Half) (body : Word) (addr : Byte) (h : Expect.sameInputs s₁ s₂) :
    SameOutcome (controlFrame code body addr s₁) (controlFrame code body addr s₂) := by
  have ⟨hproto, _, _, hcfg, _⟩ := h
  rw [controlFrame_eq, controlFrame_eq, hproto, hcfg]
  exact sendFrame_sameOutcome _ h

theorem modeFrame_sameOutcome (mode : Half) (addr : Byte) (h : Expect.sameInputs s₁ s₂) :
    SameOutcome (modeFrame mode addr s₁) (modeFrame mode addr s₂) := by
  have ⟨hproto, _, _, hcfg, _⟩ := h
  rw [modeFrame, modeFrame, hproto, hcfg]
  exact controlFrame_sameOutcome _ _ addr h

theorem powerFrame_sameOutcome (sentinel : Byte) (addr : Byte) (h : Expect.sameInputs s₁ s₂) :
    SameOutcome (powerFrame sentinel addr s₁) (powerFrame sentinel addr s₂) := by
  have ⟨hproto, _, _, hcfg, _⟩ := h
  rw [powerFrame, powerFrame, hproto, hcfg]
  exact controlFrame_sameOutcome _ _ addr h

/-- The free value of an out-of-range set-point is numbered by `draws`, on which the two states agree (log 4). -/
theorem setPoint_sameOutcome (code : Half) (mul : Nat) (addr : Byte) (v : Word) (h : Expect.sameInputs s₁ s₂) :
    SameOutcome (setPoint code mul addr v s₁) (setPoint code mul addr v s₂) := by
  have ⟨_, _, _, hcfg, hdraws⟩ := h
  unfold setPoint
  rw [hcfg, hdraws]
  split
  · exact controlFrame_sameOutcome code _ addr h
  · obtain ⟨⟨hproto, hrxf, hrxw, hcfg', -⟩, hout⟩ :=
      controlFrame_sameOutcome code (Config.drawnBody s₂.draws) addr h
    exact ⟨⟨hproto, hrxf, hrxw, hcfg', rfl⟩, hout⟩

theorem unsupported_sameOutcome (h : Expect.sameInputs s₁ s₂) : SameOutcome (unsupported s₁) (unsupported s₂) :=
  ⟨h, rfl, fun hframe => absurd hframe (show stUnsupported ≠ 0x01 by decide)⟩

theorem selectProtocol_sameOutcome (tag : Byte) (h : Expect.sameInputs s₁ s₂) :
    SameOutcome (selectProtocol tag s₁) (selectProtocol tag s₂) := by
  have ⟨_, hrest⟩ := h
  unfold selectProtocol
  split
  · exact ⟨⟨rfl, hrest⟩, rfl, fun hframe => absurd hframe (show stSelectOk ≠ 0x01 by decide)⟩
  · exact ⟨h, rfl, fun hframe => absurd hframe (show stSelectRejected ≠ 0x01 by decide)⟩

theorem parseFrame_status_ne_frame (c : Cfg) (p : Protocol) (f : Frame) : (parseFrame c p f).status ≠ 0x01 := by
  rcases parseFrame_cases c p f with ⟨-, e⟩ | ⟨-, -, e⟩ | ⟨-, x, -, e⟩ <;> rw [e]
  · exact show stInvalidFrame ≠ 0x01 by decide
  · exact show stUnknownCmd ≠ 0x01 by decide
  · exact show stOk ≠ 0x01 by decide

theorem parse_sameOutcome (h : Expect.sameInputs s₁ s₂) :
    SameOutcome (takeParsed (parseFrame s₁.cfg s₁.proto s₁.rxf) s₁) (takeParsed (parseFrame s₂.cfg s₂.proto s₂.rxf) s₂) := by
  have ⟨hproto, hrxf, hrxw, hcfg, hdraws⟩ := h
  rw [hproto, hrxf, hcfg]
  exact ⟨⟨hproto, rfl, hrxw, hcfg, hdraws⟩, rfl,
    fun hframe => absurd hframe (parseFrame_status_ne_frame s₂.cfg s₂.proto s₂.rxf)⟩

/-- Each command has the same outcome on two states that agree on its inputs. -/
theorem exec_sameOutcome {i : Instr} {t₁ : State} (h : Expect.sameInputs s₁ s₂) (h₁ : exec i s₁ = .next t₁) :
    ∃ t₂, exec i s₂ = .next t₂ ∧ SameOutcome t₁ t₂ ∧ (i = .parse → t₁.meas = t₂.meas) := by
  have ⟨hproto, hrxf, hrxw, hcfg, _⟩ := h
  cases i with
  | parse =>
    obtain ⟨hw, rfl⟩ := execParse_eq_next.mp h₁
    exact ⟨_, execParse_eq_next.mpr ⟨hrxw ▸ hw, rfl⟩, parse_sameOutcome h, fun _ => by simp [hproto, hrxf, hcfg]⟩
  | select tag => cases h₁; exact ⟨_, rfl, selectProtocol_sameOutcome tag h, by simp⟩
  | modeauto addr =>
    cases h₁
    refine ⟨_, rfl, ?_, by simp⟩
    rw [hproto, hcfg]
    split
    · exact modeFrame_sameOutcome _ addr h
    · exact unsupported_sameOutcome h
  | reqv addr | reqi addr | reqt addr | reqf addr | reqc addr =>
    cases h₁; exact ⟨_, rfl, requestFrame_sameOutcome _ addr h, by simp⟩
  | setv addr v | seti addr v =>
    cases h₁; refine ⟨_, rfl, ?_, by simp⟩; rw [hproto, hcfg]; exact setPoint_sameOutcome _ _ addr v h
  | modelow addr | modehigh addr =>
    cases h₁; refine ⟨_, rfl, ?_, by simp⟩; rw [hproto, hcfg]; exact modeFrame_sameOutcome _ addr h
  | enable addr | disable addr =>
    cases h₁; refine ⟨_, rfl, ?_, by simp⟩; rw [hproto, hcfg]; exact powerFrame_sameOutcome _ addr h

end

/-- Settles O24, by the case split over the commands in `exec_sameOutcome`. -/
theorem outcomeDependsOnlyOnProtoAndRxf : Obligations.OutcomeDependsOnlyOnProtoAndRxf := by
  unfold Obligations.OutcomeDependsOnlyOnProtoAndRxf
  intro i s₁ s₂ t₁ h h₁
  obtain ⟨t₂, h₂, ⟨hinputs, hstatus, hframe⟩, hmeas⟩ := exec_sameOutcome h h₁
  exact ⟨t₂, h₂, hinputs, hstatus, hframe, hmeas⟩

end Sys2Proof.Proofs.Outcome

/-! Settles O5, O8, O11 and O14: the three transactions at the port, one after the other and each run whole (20_memory.md
R51, R53, R57). -/

namespace Sys2Proof.Proofs.Transactions

open Sys2Proof Sys2Proof.Machine Sys2Proof.Proofs.HostPort

/-! ## One transaction taken off the port -/

/-- A CMD whose word decodes to a command runs that command (R120). -/
theorem runTransaction_of_decode {w : CmdWord} {i : Instr} (s : State) (h : decode w = .instr i) :
    runTransaction (.cmd w) s = exec i s := by
  simp only [runTransaction, runCommand, h]

/-- Settles O5: the step runs the transaction it takes, and the transaction the command its word decodes to. -/
theorem stepRunsTheDecodedCommand : Obligations.StepRunsTheDecodedCommand :=
  fun _ _ _ _ hp hdec => (step_of_pending hp).trans (runTransaction_of_decode _ hdec)

/-- Settles O11: no transaction that answers touches the list it was taken from. -/
theorem stepTakesTheOldestTransaction : Obligations.StepTakesTheOldestTransaction := by
  unfold Obligations.StepTakesTheOldestTransaction
  intro s t x rest hp h
  obtain ⟨-, hpending, -⟩ := step_of_transaction_keeps hp h
  exact hpending

/-! ## A whole run of the port -/

/-- A run goes on from the state its first step answers, on any machine behind the host's interface. -/
theorem run_succ_of_step {M : Host.Core} {s t : M.State} (k : Nat) (h : M.step s = .next t) :
    M.run (k + 1) s = M.run k t := by
  simp only [Host.Core.run, h]

/-- By induction on the presented transactions: the first completes, leaves the rest, and leaves the host's rules true of
them (R57, R253). -/
theorem run_completes (xs : List Transaction) (s : State) (hp : s.pending = xs)
    (hrules : hostKeepsRules s.pending s.rxw = true) :
    ∃ t : State, Host.Core.run Sys2Proof.core xs.length s = .next t ∧ t.pending = [] := by
  induction xs generalizing s with
  | nil => exact ⟨s, rfl, hp⟩
  | cons x rest ih =>
    obtain ⟨t, hstep, hrest⟩ := stepKeepsTheHostRules s hrules (by simp [hp])
    have hpending : t.pending = rest := stepTakesTheOldestTransaction s t x rest hp hstep
    obtain ⟨u, hrun, hempty⟩ := ih t hpending hrest
    exact ⟨u, (run_succ_of_step (M := Sys2Proof.core) rest.length hstep).trans hrun, hempty⟩

/-- Settles O14: the run of exactly the transactions that the state presents. -/
theorem hostThatKeepsItsRulesIsNeverStopped : Obligations.HostThatKeepsItsRulesIsNeverStopped :=
  fun s hrules => run_completes s.pending s rfl hrules

/-! ## Side effects -/

/-- What a READ returns depends neither on what is presented next nor on what the last READ returned (R53). -/
theorem readRegister_port_eq (r : RegName) (s : State) (xs : List Transaction) (v : Option Reply) :
    readRegister r { s with pending := xs, reply := v } = readRegister r s := by
  cases r <;> rfl

/-- A presented READ changes the host's side of the port alone: the list and the reply (R53). -/
theorem step_of_read {s : State} {r : RegName} {v : Reply} {rest : List Transaction} (hp : s.pending = .read r :: rest)
    (hv : readRegister r s = v) : step s = .next { s with pending := rest, reply := some v } := by
  rw [step_of_pending hp, ← hv, ← readRegister_port_eq r s rest s.reply]
  rfl

/-- A presented RXLOAD writes the whole of `RXF` and its written mark (R27, R51). -/
theorem step_of_rxload {s : State} {f : Frame} {rest : List Transaction} (hp : s.pending = .rxload f :: rest) :
    step s = .next { s with pending := rest, rxf := f, rxw := true } :=
  step_of_pending hp

theorem table_eq_tableOf (s : State) : Expect.table s = tableOf s.cfg s.proto := by
  unfold Expect.table tableOf
  cases s.proto <;> rfl

/-- The matcher passes exactly the frames the rule accepts (R192). -/
theorem frameMatches_iff_accepted (s : State) : frameMatches s.cfg s.proto s.rxf = true ↔ Expect.accepted s := by
  rw [frameMatches_iff, Expect.accepted, table_eq_tableOf]

/-- The decoder leaves another frame only where the sanitizer of protocol A has cleaned an accepted one (R196). -/
theorem parseFrame_rxf_of_ne {c : Cfg} {p : Protocol} {f : Frame} (hne : (parseFrame c p f).rxf ≠ f) :
    p = .A ∧ frameMatches c p f = true ∧ (parseFrame c p f).rxf = { f with data := sanitize f.data } := by
  have hclean : frameMatches c p f = true ∧ (parseFrame c p f).rxf = sanitizeFrame p f := by
    rcases parseFrame_cases c p f with ⟨-, e⟩ | ⟨hm, -, e⟩ | ⟨hm, x, -, e⟩
    · exact absurd (congrArg Parsed.rxf e) hne
    · exact ⟨hm, congrArg Parsed.rxf e⟩
    · exact ⟨hm, congrArg Parsed.rxf e⟩
  obtain ⟨hm, hrxf⟩ := hclean
  cases p with
  | A => exact ⟨rfl, hm, hrxf⟩
  | B => exact absurd hrxf hne

/-- A command that answers with another `RXF` is a PARSE, which leaves there what the decoder returned (R190). -/
theorem exec_rxf_of_ne {i : Instr} {s t : State} (h : exec i s = .next t) (hne : t.rxf ≠ s.rxf) :
    i = .parse ∧ t.rxf = (parseFrame s.cfg s.proto s.rxf).rxf := by
  rcases exec_cases h with ⟨tag, -, rfl⟩ | ⟨hi, -, rfl⟩ | ⟨_, -, rfl⟩ | ⟨_, _, _, _, _, -, -, -, rfl⟩
  · exact absurd (congrArg State.rxf (selectProtocol_keeps tag s)) hne
  · exact ⟨hi, rfl⟩
  · exact absurd rfl hne
  · exact absurd rfl hne

/-- Settles O8: READ and RXLOAD by what their steps leave; of the commands only PARSE writes `RXF`, and its decoder only
by the sanitizer of protocol A. -/
theorem transactionSideEffects : Obligations.TransactionSideEffects := by
  unfold Obligations.TransactionSideEffects
  refine ⟨fun s r rest hp => ⟨_, step_of_read hp rfl, step_of_read rfl (readRegister_port_eq r s _ _)⟩,
    fun s f rest hp => ⟨_, step_of_rxload hp, step_of_rxload rfl, step_of_rxload rfl⟩, fun i s t h hne => ?_⟩
  obtain ⟨hi, hrxf⟩ := exec_rxf_of_ne h hne
  rw [hrxf] at hne ⊢
  obtain ⟨hp, hm, hclean⟩ := parseFrame_rxf_of_ne hne
  exact ⟨hi, hp, (frameMatches_iff_accepted s).mp hm, hclean⟩

end Sys2Proof.Proofs.Transactions

/-! Settles O1, O2, O3, O4 and O7: the encoder and the decoder are inverse to each other. A row of the opcode table reads a
command exactly from the words that pack its fields with every unused one zero, so a word that decodes to a command is the
packed word `encode` builds (30_encoding.md R70, R71, R73). -/

namespace Sys2Proof.Proofs.CommandWords

open Sys2Proof Sys2Proof.Machine Sys2Proof.Proofs.PortWords

/-! ## The rows -/

/-- A packed word is known by its fields: `RSV` is zero and the others are those packed. -/
theorem eq_packWord_iff {w : CmdWord} {v : Word} {t a op : Byte} :
    w = packWord v t a op ↔ rsvOf w = 0 ∧ valueOf w = v ∧ tagOf w = t ∧ addrOf w = a ∧ opOf w = op := by
  constructor
  · rintro rfl
    obtain ⟨hop, haddr, htag, hrsv, hvalue⟩ := packWord_fields v t a op
    exact ⟨hrsv, hvalue, htag, haddr, hop⟩
  · rintro ⟨hrsv, rfl, rfl, rfl, rfl⟩
    exact eq_packWord hrsv

/-- A row that uses `ADDR` alone reads its command exactly from the words packed of `ADDR` and the operation code. -/
theorem decodeAddr_eq_instr {mk : Byte → Instr} {w : CmdWord} {i : Instr} :
    decodeAddr mk w = .instr i ↔ mk (addrOf w) = i ∧ w = packWord 0 0 (addrOf w) (opOf w) := by
  simp [decodeAddr, checkReserved_eq_instr, eq_packWord_iff, and_comm]

/-- A row that uses `ADDR` and `VALUE`. -/
theorem decodeAddrValue_eq_instr {mk : Byte → Word → Instr} {w : CmdWord} {i : Instr} :
    decodeAddrValue mk w = .instr i ↔
      mk (addrOf w) (valueOf w) = i ∧ w = packWord (valueOf w) 0 (addrOf w) (opOf w) := by
  simp [decodeAddrValue, checkReserved_eq_instr, eq_packWord_iff]

theorem decodeSelect_eq_instr {w : CmdWord} {i : Instr} :
    decodeSelect w = .instr i ↔ .select (tagOf w) = i ∧ w = packWord 0 (tagOf w) 0 (opOf w) := by
  simp [decodeSelect, checkReserved_eq_instr, eq_packWord_iff, and_comm]

theorem decodeParse_eq_instr {w : CmdWord} {i : Instr} :
    decodeParse w = .instr i ↔ .parse = i ∧ w = packWord 0 0 0 (opOf w) := by
  simp [decodeParse, checkReserved_eq_instr, eq_packWord_iff, and_comm, and_left_comm, and_assoc]

/-! ## Decoding and encoding -/

/-- Settles O2: each row's command is read from one packed word, the one `encode` builds. -/
theorem encodeOfDecodeIsTheWord : Obligations.EncodeOfDecodeIsTheWord := by
  unfold Obligations.EncodeOfDecodeIsTheWord
  intro w i h
  unfold decode at h
  split at h
  case h_1 hop => obtain ⟨rfl, hw⟩ := decodeSelect_eq_instr.mp h; rw [hop] at hw; exact hw.symm
  case h_7 hop => obtain ⟨rfl, hw⟩ := decodeAddrValue_eq_instr.mp h; rw [hop] at hw; exact hw.symm
  case h_8 hop => obtain ⟨rfl, hw⟩ := decodeAddrValue_eq_instr.mp h; rw [hop] at hw; exact hw.symm
  case h_14 hop => obtain ⟨rfl, hw⟩ := decodeParse_eq_instr.mp h; rw [hop] at hw; exact hw.symm
  case h_15 => cases h
  all_goals next hop => obtain ⟨rfl, hw⟩ := decodeAddr_eq_instr.mp h; rw [hop] at hw; exact hw.symm

/-- Every encoding is a word of the opcode table. -/
theorem encode_wellFormed (i : Instr) : wellFormedWord (encode i) = true := by
  cases i with
  | select tag => exact Laws.EncodeWellFormed.select tag
  | reqv addr => exact Laws.EncodeWellFormed.reqv addr
  | reqi addr => exact Laws.EncodeWellFormed.reqi addr
  | reqt addr => exact Laws.EncodeWellFormed.reqt addr
  | reqf addr => exact Laws.EncodeWellFormed.reqf addr
  | reqc addr => exact Laws.EncodeWellFormed.reqc addr
  | setv addr value => exact Laws.EncodeWellFormed.setv addr value
  | seti addr value => exact Laws.EncodeWellFormed.seti addr value
  | modelow addr => exact Laws.EncodeWellFormed.modelow addr
  | modehigh addr => exact Laws.EncodeWellFormed.modehigh addr
  | modeauto addr => exact Laws.EncodeWellFormed.modeauto addr
  | enable addr => exact Laws.EncodeWellFormed.enable addr
  | disable addr => exact Laws.EncodeWellFormed.disable addr
  | parse => exact Laws.EncodeWellFormed.parse

/-- Settles O1: the operation code picks the row, and the row reads back the fields that were packed. -/
theorem decodeOfEncodeIsTheCommand : Obligations.DecodeOfEncodeIsTheCommand := by
  unfold Obligations.DecodeOfEncodeIsTheCommand
  intro i
  cases i with
  | select tag => simp [encode, decode, packWord_fields, decodeSelect_eq_instr]
  | setv addr value | seti addr value => simp [encode, decode, packWord_fields, decodeAddrValue_eq_instr]
  | parse => simp [encode, decode, packWord_fields, decodeParse_eq_instr]
  | _ => simp [encode, decode, packWord_fields, decodeAddr_eq_instr]

theorem decode_of_eq_encode {w : CmdWord} {i : Instr} (h : w = encode i) : decode w = .instr i := by
  rw [h, decodeOfEncodeIsTheCommand]

/-- Settles O4: the words of R76 are encodings. -/
theorem workedEncodingsDecode : Obligations.WorkedEncodingsDecode := by
  unfold Obligations.WorkedEncodingsDecode
  refine ⟨?_, ?_, ?_, ?_, ?_, ?_, ?_, ?_⟩ <;> exact decode_of_eq_encode (by decide)

/-! ## What a word decodes to -/

/-- The fourteen used operation codes one by one (R71). -/
theorem usedOpcode_cases {op : Byte} (h : usedOpcode op = true) :
    op = 0x01 ∨ op = 0x02 ∨ op = 0x03 ∨ op = 0x04 ∨ op = 0x05 ∨ op = 0x06 ∨ op = 0x07 ∨ op = 0x08 ∨ op = 0x09 ∨
      op = 0x0A ∨ op = 0x0B ∨ op = 0x0C ∨ op = 0x0D ∨ op = 0x0E := by
  revert op; decide

/-- A used operation code has its row, which never answers ILLEGAL (R71). -/
theorem decode_ne_illegal {w : CmdWord} (h : usedOpcode (opOf w) = true) (op : Byte) : decode w ≠ .illegal op := by
  rcases usedOpcode_cases h with e | e | e | e | e | e | e | e | e | e | e | e | e | e <;>
    · simp only [decode, e]
      exact checkReserved_ne_illegal _ _ op

/-- ILLEGAL is read from the reserved operation codes alone (R100). -/
theorem decode_illegal_iff (w : CmdWord) : (∃ op, decode w = .illegal op) ↔ usedOpcode (opOf w) = false := by
  refine ⟨fun ⟨op, h⟩ => ?_, fun h => ⟨_, decode_of_not_usedOpcode h⟩⟩
  exact Bool.eq_false_iff.mpr fun hused => decode_ne_illegal hused op h

/-- The reserved operation codes by number: 0x00 and 0x0F to 0xFF (R100). -/
theorem usedOpcode_eq_false_iff (w : CmdWord) :
    usedOpcode (opOf w) = false ↔ w.toNat % 256 = 0 ∨ 0x0F ≤ w.toNat % 256 := by
  refine ⟨fun h => ?_, usedOpcode_eq_false⟩
  simp only [usedOpcode, Bool.and_eq_false_iff, decide_eq_false_iff_not, BitVec.le_def, BitVec.reduceToNat,
    opOf_toNat] at h
  omega

/-- A command is read from the words of the opcode table alone, each of which is its command's encoding (R71). -/
theorem decode_instr_iff (w : CmdWord) : (∃ i, decode w = .instr i) ↔ wellFormedWord w = true := by
  constructor
  · rintro ⟨i, h⟩
    rw [← encodeOfDecodeIsTheWord w i h]
    exact encode_wellFormed i
  · intro h
    obtain ⟨i, hdec, -⟩ := decode_of_wellFormed h
    exact ⟨i, hdec⟩

/-- Settles O3: the two characterisations, the second by number. -/
theorem decoderAcceptsExactlyTheTableRows : Obligations.DecoderAcceptsExactlyTheTableRows :=
  fun w => ⟨decode_instr_iff w, (decode_illegal_iff w).trans (usedOpcode_eq_false_iff w)⟩

/-! ## Refused words -/

/-- The reserved-field check refuses exactly when a listed field is nonzero (R73). -/
theorem checkReserved_eq_reserved (i : Instr) (fs : List (ReservedField × Bool)) :
    (∃ f, checkReserved i fs = .reserved f) ↔ ∃ f ∈ fs, f.2 = true := by
  induction fs with
  | nil => simp [checkReserved]
  | cons f rest ih =>
    obtain ⟨f, b⟩ := f
    cases b <;> simp [checkReserved, ih]

/-- The fields that the operation of `w` does not use, one of them nonzero (R71, R73). -/
def UnusedFieldNonzero (w : CmdWord) : Prop :=
  rsvOf w ≠ 0 ∨ (opOf w ≠ 0x01 ∧ tagOf w ≠ 0) ∨ ((opOf w = 0x01 ∨ opOf w = 0x0E) ∧ addrOf w ≠ 0) ∨
    (opOf w ≠ 0x07 ∧ opOf w ≠ 0x08 ∧ valueOf w ≠ 0)

/-- A word with a used operation code is refused exactly for a nonzero field its row leaves unused (R73). -/
theorem decode_reserved_of_usedOpcode {w : CmdWord} (h : usedOpcode (opOf w) = true) :
    (∃ f, decode w = .reserved f) ↔ UnusedFieldNonzero w := by
  rcases usedOpcode_cases h with e | e | e | e | e | e | e | e | e | e | e | e | e | e <;>
    simp [decode, e, decodeSelect, decodeAddr, decodeAddrValue, decodeParse, checkReserved_eq_reserved,
      UnusedFieldNonzero]

theorem decode_reserved_iff (w : CmdWord) :
    (∃ f, decode w = .reserved f) ↔ usedOpcode (opOf w) = true ∧ UnusedFieldNonzero w := by
  cases hused : usedOpcode (opOf w) with
  | true => simp [decode_reserved_of_usedOpcode hused]
  | false => simp [decode_of_not_usedOpcode hused]

/-- A CMD is refused for a field exactly when its word decodes to that refusal: no command is refused (R73, R243). -/
theorem step_refused_iff {s : State} {w : CmdWord} {rest : List Transaction} (hp : s.pending = .cmd w :: rest)
    (f : ReservedField) : step s = .refused (.reservedField f) ↔ decode w = .reserved f := by
  rw [step_of_pending hp, runTransaction]
  rcases runCommand_cases w { s with pending := rest } with ⟨i, hd, e⟩ | ⟨op, hd, e⟩ | ⟨g, hd, e⟩ <;> rw [e, hd]
  · simp [exec_ne_refused]
  · simp
  · simp

/-- Settles O7: the step refuses what the decoder refuses. -/
theorem nonzeroReservedFieldIsRefused : Obligations.NonzeroReservedFieldIsRefused := by
  unfold Obligations.NonzeroReservedFieldIsRefused
  intro s w rest hp
  have hused : (0x01#8 ≤ opOf w ∧ opOf w ≤ 0x0E#8) ↔ usedOpcode (opOf w) = true := by simp [usedOpcode]
  simp only [step_refused_iff hp, decode_reserved_iff]
  exact and_congr_left' hused.symm

end Sys2Proof.Proofs.CommandWords

/-! Settles O6 and O13: what a step makes of a reserved operation code, and where it stops. -/

namespace Sys2Proof.Proofs.PortStops

open Sys2Proof Sys2Proof.Machine Sys2Proof.Proofs.PortWords Sys2Proof.Proofs.HostPort Sys2Proof.Proofs.CommandWords

/-- Settles O6: a reserved operation code runs ILLEGAL on the state without the transaction. -/
theorem reservedOpcodeOnlyWritesIllegalOp : Obligations.ReservedOpcodeOnlyWritesIllegalOp := by
  unfold Obligations.ReservedOpcodeOnlyWritesIllegalOp
  intro s w rest hp hop
  rw [step_of_pending hp, runTransaction_of_not_usedOpcode _ (usedOpcode_eq_false hop)]
  rfl

/-- PARSE is the only command with PARSE's operation code (R71). -/
theorem opOf_encode_eq_parse {i : Instr} (h : opOf (encode i) = 0x0E) : i = .parse := by
  cases i <;> simp [encode, packWord_fields] at h ⊢

/-- A transaction that answers keeps the host's rules (R73, R190, R253). -/
theorem hostReady_of_next {x : Transaction} {s t : State} (h : runTransaction x s = .next t) :
    hostReady x s.rxw = true := by
  cases x with
  | rxload f => rfl
  | read r => rfl
  | cmd w =>
    simp only [hostReady, Bool.and_eq_true, Bool.or_eq_true, Bool.not_eq_true', bne_iff_ne]
    rw [runTransaction] at h
    rcases runCommand_cases w s with ⟨i, hd, e⟩ | ⟨op, hd, -⟩ | ⟨f, -, e⟩
    · obtain rfl : encode i = w := encodeOfDecodeIsTheWord w i hd
      have hloaded : i ≠ .parse ∨ s.rxw = true := (exec_next_iff i s).mp ⟨t, e.symm.trans h⟩
      exact ⟨.inl (encode_wellFormed i), hloaded.imp_left fun hne hop => hne (opOf_encode_eq_parse hop)⟩
    · have hunused : usedOpcode (opOf w) = false := (decode_illegal_iff w).mp ⟨op, hd⟩
      exact ⟨.inr hunused, .inl fun hop => absurd hunused (by rw [hop]; decide)⟩
    · cases e.symm.trans h

/-- Settles O13: the transaction taken runs on the state without it, whose `RXW` is the same. -/
theorem stepStopsOnlyOnABrokenHostRule : Obligations.StepStopsOnlyOnABrokenHostRule := by
  unfold Obligations.StepStopsOnlyOnABrokenHostRule
  intro s x rest hp
  rw [step_of_pending hp]
  exact ⟨fun ⟨_, h⟩ => hostReady_of_next (s := { s with pending := rest }) h, fun h => runTransaction_completes h⟩

end Sys2Proof.Proofs.PortStops

/-! Settles O23, O26, O36, O37 and O49: what an encoder command sends. Only the low seven bits of the address input reach the
identifier, and only its address field (30_encoding.md R72, R81); a set-point sends a control frame whatever its value
(42_encoder_control.md R162), and its code is no read code of its protocol (30_encoding.md R94). -/

namespace Sys2Proof.Proofs.SentFrames

open Sys2Proof Sys2Proof.Machine Sys2Proof.Proofs.Registers Sys2Proof.Proofs.Transactions

/-- Settles O23: of the cases of a command, the two that send a frame or report UNSUPPORTED are left. -/
theorem encoderCommandsTouchOnlyTheirRegisters : Obligations.EncoderCommandsTouchOnlyTheirRegisters := by
  unfold Obligations.EncoderCommandsTouchOnlyTheirRegisters
  intro i s t h hsel hparse
  rcases exec_cases h with ⟨tag, hi, -⟩ | ⟨hi, -⟩ | ⟨_, -, rfl⟩ | ⟨_, _, _, _, _, -, -, -, rfl⟩
  · exact absurd hi (hsel tag)
  · exact absurd hi hparse
  · rfl
  · rfl

/-! ## The identifier -/

/-- The address field of a built identifier is `ADDR[6:0]` (R81, R82). -/
theorem idAddr_buildId (p : Protocol) (template : Word) (addr : Byte) :
    idAddr p (buildId p template addr) = addr7 addr := by
  have hkeep : (~~~addrField p).extractLsb' (addrLsb p) 7 = 0 := by cases p <;> decide
  have hfield : ∀ a : BitVec 7, (a.setWidth 32 <<< addrLsb p).extractLsb' (addrLsb p) 7 = a := by cases p <;> decide
  simp only [idAddr, buildId, BitVec.extractLsb'_or, BitVec.extractLsb'_and, hkeep, hfield]
  simp

/-- Outside the address field a built identifier is as its template (R81). -/
theorem buildId_and_not_addrField (p : Protocol) (template : Word) (addr : Byte) :
    buildId p template addr &&& ~~~addrField p = template &&& ~~~addrField p := by
  rw [buildId, BitVec.and_or_distrib_right, addrBits_outside_addrField, BitVec.and_assoc, BitVec.and_self]
  exact BitVec.or_zero

/-- Settles O37: the address field holds the address, everything else the template. -/
theorem addressRoundTrip : Obligations.AddressRoundTrip := by
  unfold Obligations.AddressRoundTrip
  intro p template addr
  exact ⟨by simp [idAddr_buildId, addr7], buildId_and_not_addrField p template addr⟩

/-- A matcher that does not look at the address field sees the template (R81, K3 of R84). -/
theorem buildId_and_mask {p : Protocol} {mask : Word} (template : Word) (addr : Byte) (h : mask &&& addrField p = 0) :
    buildId p template addr &&& mask = template &&& mask := by
  have hmask : ~~~addrField p &&& mask = mask :=
    calc ~~~addrField p &&& mask = (mask &&& addrField p) ||| (mask &&& ~~~addrField p) := by
          rw [h, BitVec.and_comm]; exact BitVec.zero_or.symm
      _ = mask := by rw [← BitVec.and_or_distrib_left, BitVec.or_not_self, BitVec.and_allOnes]
  calc buildId p template addr &&& mask
      = buildId p template addr &&& ~~~addrField p &&& mask := by rw [BitVec.and_assoc, hmask]
    _ = template &&& ~~~addrField p &&& mask := by rw [buildId_and_not_addrField]
    _ = template &&& mask := by rw [BitVec.and_assoc, hmask]

/-! ## Bit 7 of the address input -/

theorem addr7_and_mask (addr : Byte) : addr7 (addr &&& 0x7F) = addr7 addr := by
  revert addr; decide

/-- No frame depends on bit 7 of the address input (R72). -/
theorem frameOf_addr_mask (c : Cfg) (p : Protocol) (template : Word) (code : Half) (body : Word) (addr : Byte) :
    frameOf c p template code body (addr &&& 0x7F) = frameOf c p template code body addr := by
  simp only [frameOf, buildId, addr7_and_mask]

theorem requestFrame_addr_mask (x : MeasField) (addr : Byte) (s : State) :
    requestFrame x (addr &&& 0x7F) s = requestFrame x addr s := by
  simp only [requestFrame_eq, frameOf_addr_mask]

theorem controlFrame_addr_mask (code : Half) (body : Word) (addr : Byte) (s : State) :
    controlFrame code body (addr &&& 0x7F) s = controlFrame code body addr s := by
  simp only [controlFrame_eq, frameOf_addr_mask]

theorem setPoint_addr_mask (code : Half) (mul : Nat) (addr : Byte) (v : Word) (s : State) :
    setPoint code mul (addr &&& 0x7F) v s = setPoint code mul addr v s := by
  simp only [setPoint, controlFrame_addr_mask]

/-- Settles O36: every command with an address sends a request, a control frame or a set-point of that address. -/
theorem addressHighBitIsDiscarded : Obligations.AddressHighBitIsDiscarded := by
  unfold Obligations.AddressHighBitIsDiscarded
  intro s addr v
  simp only [List.forall_mem_cons, List.not_mem_nil, false_implies, implies_true, and_true, exec]
  refine ⟨⟨?reqv, ?reqi, ?reqt, ?reqf, ?reqc, ?modelow, ?modehigh, ?modeauto, ?enable, ?disable⟩, ?setv, ?seti⟩
  case reqv | reqi | reqt | reqf | reqc => exact congrArg Host.Outcome.next (requestFrame_addr_mask _ addr s).symm
  case modelow | modehigh | enable | disable =>
    exact congrArg Host.Outcome.next (controlFrame_addr_mask _ _ addr s).symm
  case modeauto => rw [execModeauto, execModeauto, modeFrame, modeFrame, controlFrame_addr_mask]
  case setv | seti => exact congrArg Host.Outcome.next (setPoint_addr_mask _ _ addr v s).symm

/-! ## Control frames against the rule's text -/

/-- The built identifier, spelled out by protocol (R80, R81). -/
theorem buildId_eq_ident (p : Protocol) (template : Word) (addr : Byte) :
    buildId p template addr = Expect.ident p template addr := by
  have haddr : (addr7 addr).setWidth 32 = (addr &&& 0x7F).setWidth 32 := by revert addr; decide
  cases p <;> simp [buildId, Expect.ident, haddr, addrLsb, Config.afA, Config.afB]

/-- A control frame of the selected protocol is the frame of R85 to R88, where `a` and `b` are the two protocols' codes. -/
theorem controlFrame_eq_sent {code : Protocol → Half} {a : Byte} {b : Half} (hA : code .A = a.setWidth 16) (hB : code .B = b)
    (body : Word) (addr : Byte) (s : State) :
    controlFrame (code s.proto) body addr s = Expect.sent s (Expect.control s a b body addr) := by
  have hframe : frameOf s.cfg s.proto (tableOf s.cfg s.proto).idCtrl (code s.proto) body addr =
      Expect.control s a b body addr := by
    unfold Expect.control
    split <;> next hp =>
      simp [hp, hA, hB, frameOf, tableOf, buildPayload, buildId_eq_ident, Config.preambleA,
        ← BitVec.setWidth_eq_extractLsb', BitVec.setWidth_ushiftRight_eq_extractLsb]
  rw [controlFrame_eq, hframe]
  rfl

/-- A set-point sends a control frame and may draw a free value; it draws none where the value scales in range
(R162, R163). -/
theorem setPoint_eq_sent {code : Protocol → Half} {a : Byte} {b : Half} (hA : code .A = a.setWidth 16) (hB : code .B = b)
    (mul : Nat) (addr : Byte) (v : Word) (s : State) :
    ∃ body d, setPoint (code s.proto) mul addr v s =
        { Expect.sent s (Expect.control s a b body addr) with draws := d } ∧
      ∀ w, scaledBody s.cfg.scaleArith v mul = some w → body = w ∧ d = s.draws := by
  rcases setPoint_cases (code s.proto) mul addr v s with ⟨body, hsome, e⟩ | ⟨hnone, e⟩
  · rw [controlFrame_eq_sent hA hB] at e
    exact ⟨body, s.draws, e, fun w hw => ⟨Option.some.inj (hsome.symm.trans hw), rfl⟩⟩
  · rw [controlFrame_eq_sent hA hB] at e
    exact ⟨_, _, e, fun w hw => by cases hnone.symm.trans hw⟩

/-- Settles O26: both set-points are `setPoint`, each with its own code and multiplier. -/
theorem setpointsAlwaysSendAControlFrame : Obligations.SetpointsAlwaysSendAControlFrame := by
  unfold Obligations.SetpointsAlwaysSendAControlFrame
  intro s addr v
  rw [table_eq_tableOf]
  constructor
  · obtain ⟨body, d, e, hbody⟩ :=
      setPoint_eq_sent (code := codeSetv s.cfg) rfl rfl (tableOf s.cfg s.proto).mulV addr v s
    exact ⟨body, d, congrArg Host.Outcome.next e, hbody⟩
  · obtain ⟨body, d, e, hbody⟩ :=
      setPoint_eq_sent (code := codeSeti s.cfg) rfl rfl (tableOf s.cfg s.proto).mulI addr v s
    exact ⟨body, d, congrArg Host.Outcome.next e, hbody⟩

/-! ## A set-point frame at the decoder -/

/-- The decoder reads back the code that was built in, 8 bits under A and 16 under B (R85, R86, R89). -/
theorem payloadCode_buildPayload {code : Protocol → Half} {a : Byte} (hA : code .A = a.setWidth 16) (c : Cfg)
    (p : Protocol) (body : Word) : payloadCode p (buildPayload c p (code p) body) = code p := by
  cases p with
  | A => simp [payloadCode, buildPayload, hA, ← BitVec.setWidth_eq_extractLsb']
  | B => exact BitVec.extractLsb'_append_extractLsb'

/-- A control frame whose template passes the matcher and whose code is no read code parses as UNKNOWN_CMD, with no
measurement (R192, R195). -/
theorem parseFrame_controlFrame {c : Cfg} (hc : c.valid = true) {p : Protocol} {code : Half} {body : Word}
    (addr : Byte) (hctrl : (tableOf c p).idCtrl &&& (tableOf c p).mask = (tableOf c p).expect)
    (hback : payloadCode p (buildPayload c p code body) = code) (hcode : ∀ x, readCode c p x ≠ code) :
    (parseFrame c p (frameOf c p (tableOf c p).idCtrl code body addr)).status = stUnknownCmd ∧
      (parseFrame c p (frameOf c p (tableOf c p).idCtrl code body addr)).meas = Measurement.cleared := by
  obtain ⟨-, -, hmask, -⟩ := table_checks (valid_table hc p)
  have hmatch : frameMatches c p (frameOf c p (tableOf c p).idCtrl code body addr) = true :=
    (frameMatches_iff ..).mpr ⟨(buildId_and_mask _ addr hmask).trans hctrl, rfl⟩
  have hclass : classify c p (payloadCode p (frameOf c p (tableOf c p).idCtrl code body addr).data) = none :=
    (classify_eq_none ..).mpr fun x => by rw [frameOf, hback]; exact hcode x
  rcases parseFrame_cases c p (frameOf c p (tableOf c p).idCtrl code body addr) with
    ⟨hm, -⟩ | ⟨-, -, e⟩ | ⟨-, x, hx, -⟩
  · cases hmatch.symm.trans hm
  · rw [e]; exact ⟨rfl, rfl⟩
  · cases hclass.symm.trans hx

/-- Protocol A's read codes, zero extended (R93). -/
theorem readCode_A_mem (c : Cfg) (x : MeasField) : ∃ r ∈ c.readCodesA, readCode c .A x = r.setWidth 16 := by
  cases x <;> simp [Cfg.readCodesA, readCode]

theorem readCode_B_mem (c : Cfg) (x : MeasField) : readCode c .B x ∈ c.readCodesB := by
  cases x <;> simp [Cfg.readCodesB, readCode]

/-- A code that is no read code of its protocol, by the two lists of K6, is none by protocol (R93, R94). -/
theorem readCode_ne_of_not_mem {c : Cfg} {code : Protocol → Half} {a : Byte} (hA : code .A = a.setWidth 16)
    (ha : a ∉ c.readCodesA) (hb : code .B ∉ c.readCodesB) (p : Protocol) (x : MeasField) : readCode c p x ≠ code p := by
  cases p with
  | A =>
    obtain ⟨r, hr, e⟩ := readCode_A_mem c x
    intro h
    have hra : r = a := by simpa using congrArg (BitVec.setWidth 8) (e.symm.trans (h.trans hA))
    exact ha (hra ▸ hr)
  | B => exact fun h => hb (h ▸ readCode_B_mem c x)

/-- K6 of a checked configuration (R94). -/
theorem valid_k6 {c : Cfg} (h : c.valid = true) :
    (c.codesA.setv ∉ c.readCodesA ∧ c.codesB.setv ∉ c.readCodesB) ∧
      c.codesA.seti ∉ c.readCodesA ∧ c.codesB.seti ∉ c.readCodesB := by
  have hk6 : c.k6 = true := by simp only [Cfg.valid, Bool.and_eq_true] at h; exact h.1.2
  simp only [Cfg.k6, Bool.and_eq_true, Bool.not_eq_true', List.contains_eq_mem, decide_eq_false_iff_not] at hk6
  tauto

/-- Whatever its value, a set-point whose code is no read code leaves a frame that parses as UNKNOWN_CMD (R195). -/
theorem parse_of_setPoint {s : State} (hc : s.cfg.valid = true)
    (hctrl : (tableOf s.cfg s.proto).idCtrl &&& (tableOf s.cfg s.proto).mask = (tableOf s.cfg s.proto).expect)
    {code : Protocol → Half} {a : Byte} (hA : code .A = a.setWidth 16) (ha : a ∉ s.cfg.readCodesA)
    (hb : code .B ∉ s.cfg.readCodesB) {mul : Nat} {addr : Byte} {v : Word} {t : State}
    (ht : setPoint (code s.proto) mul addr v s = t) :
    ∃ u : State, exec .parse { t with rxf := t.txf, rxw := true } = .next u ∧ u.status = 0x06 ∧ u.meas.p = 0x00 := by
  have hsent : t.cfg = s.cfg ∧ t.proto = s.proto ∧
      ∃ body, t.txf = frameOf s.cfg s.proto (tableOf s.cfg s.proto).idCtrl (code s.proto) body addr := by
    rcases setPoint_cases (code s.proto) mul addr v s with ⟨body, -, e⟩ | ⟨-, e⟩ <;>
      exact ht ▸ e ▸ ⟨rfl, rfl, _, rfl⟩
  obtain ⟨hcfg, hproto, body, htxf⟩ := hsent
  obtain ⟨hstatus, hmeas⟩ := parseFrame_controlFrame hc addr hctrl (payloadCode_buildPayload hA s.cfg s.proto body)
    (readCode_ne_of_not_mem hA ha hb s.proto)
  refine ⟨_, execParse_eq_next.mpr ⟨rfl, rfl⟩, ?_, ?_⟩
  · simp only [takeParsed_status, hcfg, hproto, htxf, hstatus]; rfl
  · simp only [takeParsed_meas, hcfg, hproto, htxf, hmeas]; rfl

/-- Settles O49: K6 keeps both set-point codes apart from the read codes. -/
theorem setpointFrameParsesAsUnknown : Obligations.SetpointFrameParsesAsUnknown := by
  unfold Obligations.SetpointFrameParsesAsUnknown
  intro s t addr v hc hctrl ht
  rw [table_eq_tableOf] at hctrl
  obtain ⟨⟨hsetvA, hsetvB⟩, hsetiA, hsetiB⟩ := valid_k6 hc
  rcases ht with ht | ht <;> cases ht
  · exact parse_of_setPoint hc hctrl (code := codeSetv s.cfg) rfl hsetvA hsetvB rfl
  · exact parse_of_setPoint hc hctrl (code := codeSeti s.cfg) rfl hsetiA hsetiB rfl

end Sys2Proof.Proofs.SentFrames

/-! Settles O17: the checks of a configuration run on `P_REF` (30_encoding.md R84, R97 to R99). -/

namespace Sys2Proof.Proofs.ReferenceInstance

open Sys2Proof Sys2Proof.Machine

/-- `P_REF` passes K1 to K9 (R84, R99). -/
theorem pRef_valid : Config.pRef.valid = true := by decide

/-- Settles O17: the checks K1 to K9, then the source's examples with `X_PROTO = A`. -/
theorem referenceInstanceMeetsTheChecks : Obligations.ReferenceInstanceMeetsTheChecks :=
  ⟨pRef_valid, by decide, by decide, rfl, rfl⟩

end Sys2Proof.Proofs.ReferenceInstance

/-! Settles O20 and O21: `PROTO` is written by SELECT of a recognized tag and by no other command (40_dispatch.md R121,
R123). -/

namespace Sys2Proof.Proofs.Selection

open Sys2Proof Sys2Proof.Machine

/-- Settles O21: of the cases of a command only a selection writes `PROTO`; a PARSE reads it, a sent frame is built
under it. -/
theorem onlySelectWritesProto : Obligations.OnlySelectWritesProto := by
  unfold Obligations.OnlySelectWritesProto
  intro i s t h hsel
  rcases exec_cases h with ⟨tag, hi, -⟩ | ⟨-, -, rfl⟩ | ⟨_, -, rfl⟩ | ⟨_, _, _, _, _, -, -, -, rfl⟩
  · exact absurd hi (hsel tag)
  · exact takeParsed_proto ..
  · exact unsupported_proto s
  · simp only [sendFrame_proto]

/-- A tag is unrecognized exactly when it is neither 0x00 nor 0x01 (R121, R124). -/
theorem ofTag_eq_none_iff (tag : Byte) : Protocol.ofTag tag = none ↔ tag.toNat ≠ 0 ∧ tag.toNat ≠ 1 := by
  simp [Protocol.ofTag, BitVec.toNat_eq, ite_eq_iff]

/-- Settles O20: the two recognized tags select their protocol; any other tag names none, so `PROTO` stays. -/
theorem selectWritesProtoOrRejects : Obligations.SelectWritesProtoOrRejects := by
  unfold Obligations.SelectWritesProtoOrRejects
  intro tag s
  show Host.Outcome.next (selectProtocol tag s) = _
  congr 1
  split_ifs with hA hB
  · obtain rfl : tag = 0x00 := BitVec.eq_of_toNat_eq hA
    rfl
  · obtain rfl : tag = 0x01 := BitVec.eq_of_toNat_eq hB
    rfl
  · have hnone : Protocol.ofTag tag = none := (ofTag_eq_none_iff tag).mpr ⟨hA, hB⟩
    rcases selectProtocol_cases tag s with ⟨p, hp, -⟩ | ⟨-, e⟩
    · cases hnone.symm.trans hp
    · exact e

end Sys2Proof.Proofs.Selection

/-! Settles O25 and O48: what a request sends, and what its frame parses back to. K4 lets the read template through the
matcher, K3 keeps the address out of the matcher's sight, and K5 makes the router find the field that was asked for
(41_encoder_requests.md R140, R146). -/

namespace Sys2Proof.Proofs.Requests

open Sys2Proof Sys2Proof.Machine Sys2Proof.Proofs.SentFrames Sys2Proof.Proofs.Transactions

/-! ## The request frames -/

/-- A request frame of the selected protocol is the frame of R140, where `a` and `b` are the two protocols' codes of the
measurement. -/
theorem requestFrame_eq_sent {x : MeasField} {a : Byte} {b : Half} {s : State}
    (hA : readCode s.cfg .A x = a.setWidth 16) (hB : readCode s.cfg .B x = b) (addr : Byte) :
    requestFrame x addr s = Expect.sent s (Expect.request s a b addr) := by
  have hframe : frameOf s.cfg s.proto (tableOf s.cfg s.proto).idRead (readCode s.cfg s.proto x) 0 addr =
      Expect.request s a b addr := by
    unfold Expect.request
    split <;> next hp =>
      simp [hp, hA, hB, frameOf, tableOf, buildPayload, buildId_eq_ident, Config.preambleA,
        ← BitVec.setWidth_eq_extractLsb', BitVec.setWidth_ushiftRight_eq_extractLsb]
  rw [requestFrame_eq, hframe]
  rfl

/-- Settles O25: each request sends the frame of its measurement, whose two codes are the model's read codes. -/
theorem requestFrames : Obligations.RequestFrames := by
  unfold Obligations.RequestFrames
  intro s addr
  simp only [List.forall_mem_cons, List.not_mem_nil, false_implies, implies_true, and_true]
  refine ⟨?reqv, ?reqi, ?reqt, ?reqf, ?reqc⟩
  case reqv | reqi | reqt | reqf | reqc => exact congrArg Host.Outcome.next (requestFrame_eq_sent rfl rfl addr)

/-! ## The router on a read code -/

/-- The fields in the order of classification (R194). -/
def fieldOrder : List MeasField := [.volt, .curr, .temp, .flags, .cap]

theorem mem_fieldOrder (x : MeasField) : x ∈ fieldOrder := by cases x <;> decide

/-- K5 of a checked configuration: no protocol reads two fields by one code (R93). -/
theorem readCodes_nodup {c : Cfg} (hc : c.valid = true) (p : Protocol) : (fieldOrder.map (readCode c p)).Nodup := by
  have hk5 : c.k5 = true := by simp only [Cfg.valid, Bool.and_eq_true] at hc; exact hc.1.1.2
  simp only [Cfg.k5, Bool.and_eq_true, decide_eq_true_eq] at hk5
  obtain ⟨hnodupA, hnodupB⟩ := hk5
  cases p with
  | A =>
    have hwiden : Function.Injective (BitVec.setWidth 16 : Byte → Half) := fun a b h => by
      simpa using congrArg (BitVec.setWidth 8) h
    show (c.readCodesA.map (BitVec.setWidth 16)).Nodup
    exact hnodupA.map hwiden
  | B => exact hnodupB

/-- The router sends the read code of a field to that field: it answers some field with this code, and K5 leaves no
other. -/
theorem classify_readCode {c : Cfg} (hc : c.valid = true) (p : Protocol) (x : MeasField) :
    classify c p (readCode c p x) = some x := by
  cases h : classify c p (readCode c p x) with
  | none => exact absurd rfl ((classify_eq_none ..).mp h x)
  | some y =>
    exact congrArg some (List.inj_on_of_nodup_map (readCodes_nodup hc p) (mem_fieldOrder y) (mem_fieldOrder x)
      (classify_eq_some h))

/-! ## A payload filled with a raw value -/

theorem payloadCode_withRaw (p : Protocol) (d : Payload) (r : Word) :
    payloadCode p (Expect.withRaw d r) = payloadCode p d := by
  cases p <;> rfl

theorem rawValue_withRaw (d : Payload) (r : Word) : rawValue (Expect.withRaw d r) = r := by
  simp only [rawValue, be32, Expect.withRaw, BitVec.setWidth_ushiftRight_eq_extractLsb]
  rw [BitVec.setWidth_eq_extractLsb' (by decide), BitVec.extractLsb'_append_extractLsb'_eq_extractLsb' (by rfl),
    BitVec.extractLsb'_append_extractLsb'_eq_extractLsb' (by rfl), BitVec.extractLsb'_append_extractLsb']

/-- The truncated quotient of a 32-bit raw value fits 32 bits: the only magnitude that does not, `2^31`, has a minus
sign (R205). -/
theorem scaleTemp_toInt (div : Nat) (r : Word) : (scaleTemp div r).toInt = r.toInt.tdiv div := by
  have hmag : (r.toInt.tdiv div).natAbs ≤ r.toInt.natAbs := Int.natAbs_tdiv_le_natAbs ..
  have hneg : r.toInt ≤ 0 → r.toInt.tdiv div ≤ 0 := fun h => by
    have := Int.tdiv_nonneg (Int.neg_nonneg_of_nonpos h) (Int.natCast_nonneg div)
    rw [Int.neg_tdiv] at this
    omega
  have hlo := r.le_toInt
  have hhi := r.toInt_lt
  exact BitVec.toInt_ofInt_eq_self (by decide) (by omega) (by omega)

/-! ## A filled request frame at the decoder -/

/-- The request frame of `x` with `r` as its raw value, decoded by the protocol that built it: accepted by K3 and K4, and
measured as `x` by K5 (R146). -/
theorem parseFrame_filledRequest {c : Cfg} (hc : c.valid = true) (p : Protocol) (x : MeasField) (addr : Byte) (r : Word)
    {f : Frame} (hf : f = frameOf c p (tableOf c p).idRead (readCode c p x) 0 addr) :
    parseFrame c p { f with data := Expect.withRaw f.data r } =
      ⟨stOk, measurementOf c p x (addr7 addr) r, sanitizeFrame p { f with data := Expect.withRaw f.data r }⟩ := by
  obtain ⟨-, -, hmask, hread, -⟩ := table_checks (valid_table hc p)
  obtain ⟨a, -, hA⟩ := readCode_A_mem c x
  have hmatch : frameMatches c p { f with data := Expect.withRaw f.data r } = true :=
    (frameMatches_iff ..).mpr ⟨by rw [hf]; exact (buildId_and_mask _ addr hmask).trans hread, by rw [hf]; rfl⟩
  have hclass : classify c p (payloadCode p (Expect.withRaw f.data r)) = some x := by
    have hcode : payloadCode p f.data = readCode c p x :=
      hf ▸ payloadCode_buildPayload (code := (readCode c · x)) hA c p 0
    rw [payloadCode_withRaw, hcode, classify_readCode hc]
  have haddr : idAddr p f.id = addr7 addr := hf ▸ idAddr_buildId p _ addr
  rcases parseFrame_cases c p { f with data := Expect.withRaw f.data r } with ⟨hm, -⟩ | ⟨-, hx, -⟩ | ⟨-, y, hy, e⟩
  · cases hmatch.symm.trans hm
  · cases hclass.symm.trans hx
  · cases hclass.symm.trans hy
    rw [e, haddr, rawValue_withRaw]

/-- What PARSE leaves when the frame of a request is filled with `r` and loaded (R146). -/
theorem parse_of_filledRequest {s t : State} (hc : s.cfg.valid = true) {x : MeasField} {addr : Byte} (r : Word)
    (ht : requestFrame x addr s = t) :
    ∃ u : State,
      exec .parse { t with rxf := { t.txf with data := Expect.withRaw t.txf.data r }, rxw := true } = .next u ∧
        u.status = stOk ∧ u.meas = measurementOf s.cfg s.proto x (addr7 addr) r := by
  have hparsed := parseFrame_filledRequest hc s.proto x addr r rfl
  subst ht
  refine ⟨_, execParse_eq_next.mpr ⟨rfl, rfl⟩, ?_, ?_⟩
  · exact congrArg Parsed.status hparsed
  · exact congrArg Parsed.meas hparsed

/-- The five requests with the field each asks for, as the rule lists them (R141 to R145). -/
theorem exec_request (s : State) (addr : Byte) :
    ∀ q ∈ [(Instr.reqv addr, MeasField.volt), (.reqi addr, .curr), (.reqt addr, .temp), (.reqf addr, .flags),
        (.reqc addr, .cap)], exec q.1 s = .next (requestFrame q.2 addr s) := by
  simp only [List.forall_mem_cons, List.not_mem_nil, false_implies, implies_true, and_true]
  exact ⟨rfl, rfl, rfl, rfl, rfl⟩

/-- Settles O48: the measurement of the field that was asked for, of the address that was asked. -/
theorem requestFrameParsesBack : Obligations.RequestFrameParsesBack := by
  unfold Obligations.RequestFrameParsesBack
  rintro s t addr r hc ⟨i, x⟩ hq ht
  have hsent : requestFrame x addr s = t := Host.Outcome.next.inj ((exec_request s addr _ hq).symm.trans ht)
  obtain ⟨u, hu, hstatus, hmeas⟩ := parse_of_filledRequest hc r hsent
  obtain ⟨haddr, hp, hzero⟩ := measurementOf_spec s.cfg s.proto x (addr7 addr) r
  rw [← hmeas] at haddr hp hzero
  have hlow : (addr7 addr).toNat = addr.toNat % 128 := by simp [addr7]
  refine ⟨u, hu, hstatus, by rw [haddr, BitVec.toNat_setWidth, hlow]; omega, hzero, ?_⟩
  rw [table_eq_tableOf]
  cases x with
  | volt | curr | flags | cap => exact ⟨hp, by rw [hmeas]; rfl⟩
  | temp => exact ⟨hp, by rw [hmeas]; exact scaleTemp_toInt _ r⟩

end Sys2Proof.Proofs.Requests

/-! Settles O27 to O31: the body of a set-point as an exact rational (42_encoder_control.md R161, R162, R165).

The idea: each arithmetic takes the sign of `real(v)` and a magnitude, the product's or its rounding, and the body is their
truncation. Rounding depends on the value alone, keeps a product the format can hold, and moves any other by at most half
a unit in the last place. -/

namespace Sys2Proof.Proofs.SetPointScaling

open Sys2Proof Sys2Proof.Machine Sys2Proof.Proofs.Rounding

/-! ## Rounding depends on the value alone -/

theorem ratio_nonneg (x : Ratio) : 0 ≤ Expect.ratio x := div_nonneg (Nat.cast_nonneg _) (Nat.cast_nonneg _)

theorem ratio_pos {x : Ratio} (hn : x.num ≠ 0) (hd : 0 < x.den) : 0 < Expect.ratio x :=
  div_pos (Nat.cast_pos.mpr (Nat.pos_of_ne_zero hn)) (Nat.cast_pos.mpr hd)

theorem ratio_eq_zero_iff {x : Ratio} (hd : 0 < x.den) : Expect.ratio x = 0 ↔ x.num = 0 :=
  ⟨fun h => by_contra fun hn => (ratio_pos hn hd).ne' h, ratio_eq_zero⟩

/-- The exponent of the leading bit is the binary logarithm of the value. -/
theorem floorLog2_eq_log {x : Ratio} (hn : x.num ≠ 0) (hd : 0 < x.den) : x.floorLog2 = Int.log 2 (Expect.ratio x) := by
  obtain ⟨hlo, hhi⟩ := floorLog2_spec (Nat.pos_of_ne_zero hn) hd
  have hpos := ratio_pos hn hd
  have hle : x.floorLog2 ≤ Int.log 2 (Expect.ratio x) :=
    (Int.zpow_le_iff_le_log one_lt_two hpos).mp (by exact_mod_cast hlo)
  have hlt : Int.log 2 (Expect.ratio x) < x.floorLog2 + 1 :=
    (Int.lt_zpow_iff_log_lt one_lt_two hpos).mp (by exact_mod_cast hhi)
  omega

theorem lastPlace_eq {fmt : FloatFormat} {x : Ratio} (hn : x.num ≠ 0) (hd : 0 < x.den) :
    x.lastPlace fmt = max fmt.minExp (Int.log 2 (Expect.ratio x) - (fmt.prec - 1)) := by
  rw [Ratio.lastPlace, floorLog2_eq_log hn hd]

theorem halfEven_mul_left {k : Nat} (hk : 0 < k) (n d : Nat) : halfEven (k * n) (k * d) = halfEven n d := by
  have hdouble : 2 * (k * (n % d)) = k * (2 * (n % d)) := Nat.mul_left_comm ..
  simp only [halfEven, Nat.mul_div_mul_left n d hk, Nat.mul_mod_mul_left, hdouble, Nat.mul_lt_mul_left hk]

theorem halfEven_congr {n d n' d' : Nat} (hd : 0 < d) (hd' : 0 < d') (h : (n : ℚ) / d = (n' : ℚ) / d') :
    halfEven n d = halfEven n' d' := by
  have hcross : d' * n = d * n' := by
    rw [div_eq_div_iff (by positivity) (by positivity)] at h
    have : n * d' = n' * d := by exact_mod_cast h
    linarith
  rw [← halfEven_mul_left hd' n d, ← halfEven_mul_left hd n' d', hcross, Nat.mul_comm d' d]

theorem round_congr (fmt : FloatFormat) {x y : Ratio} (hx : 0 < x.den) (hy : 0 < y.den)
    (h : Expect.ratio x = Expect.ratio y) : fmt.round x = fmt.round y := by
  have hzero : x.num = 0 ↔ y.num = 0 := by rw [← ratio_eq_zero_iff hx, h, ratio_eq_zero_iff hy]
  by_cases hn : x.num = 0
  · rw [round_of_zero hn, round_of_zero (hzero.mp hn)]
  · have hn' : y.num ≠ 0 := mt hzero.mpr hn
    have hlast : x.lastPlace fmt = y.lastPlace fmt := by rw [lastPlace_eq hn hx, lastPlace_eq hn' hy, h]
    have hsig : roundedSig fmt x = roundedSig fmt y :=
      halfEven_congr (scalePow_den_pos hx _) (scalePow_den_pos hy _) (by
        rw [scalePow_eq_inUlps, scalePow_eq_inUlps, inUlps, inUlps, h, hlast])
    rw [round_eq_fit hn, round_eq_fit hn', hsig, hlast]

/-! ## How far rounding moves a value -/

/-- Half a unit in the last place, the unit being that of the exact value. -/
theorem round_near {fmt : FloatFormat} (hp : 0 < fmt.prec) {x : Ratio} (hd : 0 < x.den) {d : Dyad}
    (h : fmt.round x = some d) :
    |Expect.dyad d - Expect.ratio x| ≤ (2 : ℚ) ^ max fmt.minExp (Int.log 2 (Expect.ratio x) - (fmt.prec - 1)) / 2 := by
  by_cases hn : x.num = 0
  · obtain rfl := Option.some.inj ((round_of_zero hn).symm.trans h)
    simp only [Expect.dyad, ratio_eq_zero hn, Nat.cast_zero, zero_mul, sub_self, abs_zero]
    positivity
  · obtain ⟨-, -, hval⟩ := fit_eq_some hp ((round_eq_fit hn).symm.trans h)
    have hnear := halfEven_near (x.scalePow (-(x.lastPlace fmt))).num (scalePow_den_pos hd (-(x.lastPlace fmt)))
    rw [scalePow_eq_inUlps] at hnear
    rw [← lastPlace_eq hn hd, Expect.dyad, hval, dist_mul_ulp, div_eq_inv_mul, ← one_div]
    exact mul_le_mul_of_nonneg_right hnear (by positivity)

theorem round_binary32_near {x : Ratio} (hd : 0 < x.den) {d : Dyad} (h : Machine.binary32.round x = some d) :
    |Expect.dyad d - Expect.ratio x| ≤ Expect.ulp32 (Expect.ratio x) / 2 := by
  have hprec : (Machine.binary32.prec : ℤ) - 1 = 23 := rfl
  have hnear := round_near (by decide) hd h
  rwa [hprec] at hnear

theorem dyad_lt_overflowBound {fmt : FloatFormat} {d : Dyad} (hr : Expect.representable fmt d) :
    Expect.dyad d < overflowBound fmt := by
  obtain ⟨hsig, -, hmax⟩ := hr
  have hsig' : (d.sig : ℚ) + 1 ≤ (2 ^ fmt.prec : Nat) := by exact_mod_cast hsig
  rw [overflowBound_eq]
  calc Expect.dyad d ≤ (d.sig : ℚ) * (2 : ℚ) ^ fmt.maxExp :=
        mul_le_mul_of_nonneg_left (zpow_le_zpow_right₀ one_le_two hmax) (Nat.cast_nonneg _)
    _ < _ := mul_lt_mul_of_pos_right (by linarith) (by positivity)

/-- A value the format holds rounds to itself. -/
theorem round_of_representable {fmt : FloatFormat} (hp : 1 < fmt.prec) (hexp : fmt.minExp ≤ fmt.maxExp) {x : Ratio}
    (hd : 0 < x.den) {d : Dyad} (hr : Expect.representable fmt d) (h : Expect.dyad d = Expect.ratio x) :
    ∃ d', fmt.round x = some d' ∧ Expect.dyad d' = Expect.ratio x := by
  cases hround : fmt.round x with
  | none =>
    have hle := (round_eq_none_iff (Nat.lt_of_succ_lt hp) hexp hd).mp hround
    exact absurd (dyad_lt_overflowBound hr) (not_lt.mpr (h ▸ hle))
  | some d' =>
    obtain ⟨hnearest, -⟩ := (round_nearest_even hp hexp hd hround).2 d hr
    rw [h, sub_self, abs_zero, abs_nonpos_iff, sub_eq_zero] at hnearest
    exact ⟨d', rfl, hnearest⟩

/-! ## `real(v)` as sign and magnitude -/

/-- The number of a sign and a magnitude. -/
def signed (neg : Bool) (x : ℚ) : ℚ := if neg then -x else x

theorem abs_signed (neg : Bool) {x : ℚ} (hx : 0 ≤ x) : |signed neg x| = x := by
  cases neg <;> simp [signed, abs_of_nonneg hx]

theorem signed_mul (neg : Bool) (x y : ℚ) : signed neg x * y = signed neg (x * y) := by
  cases neg <;> simp [signed]

theorem dyad_nonneg (d : Dyad) : 0 ≤ Expect.dyad d := mul_nonneg (Nat.cast_nonneg _) (by positivity)

theorem ratio_toRatio (d : Dyad) : Expect.ratio d.toRatio = Expect.dyad d := toRatio_value d

theorem expField_eq (v : Word) : expField v = (v >>> 23).toNat % 256 := by simp [expField]

theorem fracField_eq (v : Word) : fracField v = v.toNat % 2 ^ 23 := by simp [fracField]

theorem isFinite32_iff (v : Word) : isFinite32 v = true ↔ Expect.finite v := by
  simp [isFinite32, Expect.finite, expField_eq]

theorem real_eq_signed (v : Word) : Expect.real v = signed (signOf v) (Expect.dyad (magnitude32 v)) := by
  simp only [Expect.real, magnitude32, ← expField_eq, ← fracField_eq, signOf, signed, Expect.dyad]
  split_ifs <;> ring

/-- The exact product of R161, as the model forms it before any rounding. -/
def productOf (v : Word) (m : Nat) : Ratio := (magnitude32 v).toRatio.mulNat m

theorem productOf_den_pos (v : Word) (m : Nat) : 0 < (productOf v m).den := toRatio_den_pos (magnitude32 v)

theorem ratio_productOf (v : Word) (m : Nat) : Expect.ratio (productOf v m) = Expect.dyad (magnitude32 v) * m := by
  rw [← ratio_toRatio]
  exact mulNat_value _ m

theorem signed_productOf (v : Word) (m : Nat) :
    signed (signOf v) (Expect.ratio (productOf v m)) = Expect.real v * m := by
  rw [ratio_productOf, ← signed_mul, real_eq_signed]

theorem ratio_productOf_eq_abs (v : Word) (m : Nat) : Expect.ratio (productOf v m) = |Expect.real v * m| := by
  rw [← signed_productOf, abs_signed _ (ratio_nonneg _)]

/-! ## The body -/

/-- `b` is `trunc(x)`, and that lies in `0 .. 2^31 - 1` (R162). -/
def IsBody (b : Word) (x : ℚ) : Prop :=
  0 ≤ Expect.trunc x ∧ Expect.trunc x ≤ 2 ^ 31 - 1 ∧ (b.toNat : ℤ) = Expect.trunc x

theorem trunc_signed (neg : Bool) {x : ℚ} (hx : 0 ≤ x) : Expect.trunc (signed neg x) = if neg then -⌊x⌋ else ⌊x⌋ := by
  cases neg with
  | false => simp [signed, Expect.trunc, hx]
  | true =>
    rcases hx.eq_or_lt with rfl | hpos
    · simp [signed, Expect.trunc]
    · simp [signed, Expect.trunc, hpos.not_ge, Int.ceil_neg]

/-- The model's range check on the floor of a magnitude is the one of R162 on the signed value. -/
theorem isBody_signed_iff (b : Word) (neg : Bool) (p : Ratio) :
    IsBody b (signed neg (Expect.ratio p)) ↔
      (if (neg && p.floor != 0) || 2 ^ 31 ≤ p.floor then none else some (BitVec.ofNat 32 p.floor)) = some b := by
  have hfloor : ⌊Expect.ratio p⌋ = (p.floor : ℤ) := (floor_value p).symm
  have hword : p.floor < 2 ^ 31 → (BitVec.ofNat 32 p.floor = b ↔ b.toNat = p.floor) := fun h => by
    rw [BitVec.toNat_eq, BitVec.toNat_ofNat, Nat.mod_eq_of_lt (by omega), eq_comm]
  rw [IsBody, trunc_signed neg (ratio_nonneg p), hfloor]
  cases neg with
  | false =>
    rcases lt_or_ge p.floor (2 ^ 31) with hlt | hge
    · simp only [Bool.false_and, Bool.false_or, decide_eq_true_eq, Bool.false_eq_true, if_false, hlt.not_ge,
        Option.some.injEq, hword hlt]
      omega
    · simp only [Bool.false_and, Bool.false_or, decide_eq_true_eq, Bool.false_eq_true, if_false, hge, if_true,
        reduceCtorEq, iff_false]
      omega
  | true =>
    rcases Nat.eq_zero_or_pos p.floor with hzero | hpos
    · rw [hzero] at hword ⊢
      simpa using (hword (by decide)).symm
    · simp [hpos.ne']

/-- What the three arithmetics share: a finite `v`, a product in the arithmetic, and its truncation in range
(R161, R162). -/
theorem scaledBody_eq_some_iff {arith : ScaleArith} {v : Word} {m : Nat} {b : Word} :
    scaledBody arith v m = some b ↔
      Expect.finite v ∧ ∃ p, prodMagnitude arith v m = some p ∧ IsBody b (signed (signOf v) (Expect.ratio p)) := by
  simp only [isBody_signed_iff, ← isFinite32_iff, scaledBody]
  cases isFinite32 v <;> cases prodMagnitude arith v m <;> simp

/-- Settles O27: the product is exact, so its signed magnitude is `real(v) * M`. -/
theorem exactScalingTruncatesTheProduct : Obligations.ExactScalingTruncatesTheProduct := by
  unfold Obligations.ExactScalingTruncatesTheProduct
  intro v m b
  have hprod : prodMagnitude .exact v m = some (productOf v m) := rfl
  rw [scaledBody_eq_some_iff, ← signed_productOf]
  simp only [hprod, Option.some.injEq, exists_eq_left', IsBody]

/-! ## The rounded arithmetics -/

/-- The two rounded arithmetics with their formats (R161). -/
def Rounds (arith : ScaleArith) (fmt : FloatFormat) : Prop :=
  ∀ (v : Word) (m : Nat), prodMagnitude arith v m = (fmt.round (productOf v m)).map Dyad.toRatio

theorem rounds_binary32 : Rounds .binary32 Machine.binary32 := fun _ _ => rfl

theorem rounds_binary64 : Rounds .binary64 Machine.binary64 := fun _ _ => rfl

theorem scaledBody_rounded_iff {arith : ScaleArith} {fmt : FloatFormat} (h : Rounds arith fmt) {v : Word} {m : Nat}
    {b : Word} :
    scaledBody arith v m = some b ↔
      Expect.finite v ∧ ∃ d, fmt.round (productOf v m) = some d ∧ IsBody b (signed (signOf v) (Expect.dyad d)) := by
  rw [scaledBody_eq_some_iff, h v m]
  simp only [Option.map_eq_some_iff, ← ratio_toRatio]
  constructor
  · rintro ⟨hfin, _, ⟨d, hd, rfl⟩, hb⟩
    exact ⟨hfin, d, hd, hb⟩
  · rintro ⟨hfin, d, hd, hb⟩
    exact ⟨hfin, _, ⟨d, hd, rfl⟩, hb⟩

/-- The sign bit is the sign of `real(v)`, but for a zero, whose product rounds to a zero. -/
theorem signed_signOf_rounded {fmt : FloatFormat} {v : Word} {m : Nat} {d : Dyad}
    (hd : fmt.round (productOf v m) = some d) :
    signed (signOf v) (Expect.dyad d) = if Expect.real v < 0 then -Expect.dyad d else Expect.dyad d := by
  have hmag := dyad_nonneg (magnitude32 v)
  have hreal := real_eq_signed v
  cases hs : signOf v with
  | false =>
    rw [hs] at hreal
    rw [if_neg (not_lt.mpr (hreal ▸ hmag))]
    rfl
  | true =>
    rw [hs] at hreal
    rcases hmag.eq_or_lt with hzero | hpos
    · have hnum : (productOf v m).num = 0 :=
        (ratio_eq_zero_iff (productOf_den_pos v m)).mp (by rw [ratio_productOf, ← hzero, zero_mul])
      obtain rfl := Option.some.inj ((round_of_zero hnum).symm.trans hd)
      simp [signed, Expect.dyad]
    · rw [if_pos (hreal ▸ neg_neg_of_pos hpos)]
      rfl

/-- The rounded arithmetics on any magnitude `x` of the value of the product: it rounds as the model's product does. -/
theorem scaledBody_rounded_iff_of_ratio {arith : ScaleArith} {fmt : FloatFormat} (h : Rounds arith fmt) (v : Word) (m : Nat)
    (b : Word) (x : Ratio) (hx : 0 < x.den) (hval : Expect.ratio x = |Expect.real v * m|) :
    scaledBody arith v m = some b ↔
      Expect.finite v ∧ ∃ d, fmt.round x = some d ∧
        IsBody b (if Expect.real v < 0 then -Expect.dyad d else Expect.dyad d) := by
  have hround : fmt.round x = fmt.round (productOf v m) :=
    round_congr fmt hx (productOf_den_pos v m) (hval.trans (ratio_productOf_eq_abs v m).symm)
  rw [scaledBody_rounded_iff h, hround]
  exact and_congr_right fun _ => exists_congr fun d => and_congr_right fun hd => by rw [signed_signOf_rounded hd]

/-- Settles O28: both formats, each with the arithmetic that rounds to it. -/
theorem roundedScalingTruncatesTheRoundedProduct : Obligations.RoundedScalingTruncatesTheRoundedProduct := by
  unfold Obligations.RoundedScalingTruncatesTheRoundedProduct
  simp only [List.forall_mem_cons, List.not_mem_nil, false_implies, implies_true, and_true]
  exact ⟨scaledBody_rounded_iff_of_ratio rounds_binary32, scaledBody_rounded_iff_of_ratio rounds_binary64⟩

/-! ## BINARY64 against EXACT -/

theorem magnitude32_bounds {v : Word} (h : Expect.finite v) :
    (magnitude32 v).sig < 2 ^ 24 ∧ -149 ≤ (magnitude32 v).exp ∧ (magnitude32 v).exp ≤ 104 := by
  have hfrac : fracField v < 2 ^ 23 := (v.extractLsb' 0 23).isLt
  have hexp : expField v < 256 := (v.extractLsb' 23 8).isLt
  have hfin : expField v ≠ 255 := by rw [expField_eq]; exact h
  unfold magnitude32
  split_ifs <;> dsimp only <;> omega

/-- 24 bits times at most 29 bits fit the 53 bits of a binary64, whose exponents reach further (R161). -/
theorem round_binary64_productOf {v : Word} (h : Expect.finite v) {m : Nat} (hm : m < 2 ^ 29) :
    ∃ d, Machine.binary64.round (productOf v m) = some d ∧ Expect.dyad d = Expect.ratio (productOf v m) := by
  obtain ⟨hsig, hlo, hhi⟩ := magnitude32_bounds h
  have hfits : (magnitude32 v).sig * m < 2 ^ 53 :=
    calc (magnitude32 v).sig * m < 2 ^ 24 * 2 ^ 29 := Nat.mul_lt_mul'' hsig hm
      _ = 2 ^ 53 := by norm_num
  have hrep : Expect.representable Machine.binary64 ⟨(magnitude32 v).sig * m, (magnitude32 v).exp⟩ :=
    ⟨hfits, by simp only [Machine.binary64]; omega, by simp only [Machine.binary64]; omega⟩
  refine round_of_representable (by decide) (by decide) (productOf_den_pos v m) hrep ?_
  rw [ratio_productOf, Expect.dyad, Expect.dyad]
  push_cast
  ring

/-- Settles O29: the rounded product is the product, so both truncate the same value. -/
theorem binary64ScalingAgreesWithExact : Obligations.Binary64ScalingAgreesWithExact := by
  unfold Obligations.Binary64ScalingAgreesWithExact
  intro v m hm
  ext b
  rw [scaledBody_rounded_iff rounds_binary64, scaledBody_eq_some_iff]
  refine and_congr_right fun hfin => ?_
  obtain ⟨d, hd, hval⟩ := round_binary64_productOf hfin hm
  have hprod : prodMagnitude .exact v m = some (productOf v m) := rfl
  simp only [hd, hprod, Option.some.injEq, exists_eq_left', hval]

/-! ## The set-point recovered from its body -/

theorem isBody_bounds {b : Word} {x : ℚ} (hx : 0 ≤ x) (h : IsBody b x) : (b.toNat : ℚ) ≤ x ∧ x < b.toNat + 1 := by
  obtain ⟨-, -, hb⟩ := h
  rw [Expect.trunc, if_pos hx] at hb
  have hcast : (b.toNat : ℚ) = ⌊x⌋ := by exact_mod_cast hb
  exact hcast ▸ ⟨Int.floor_le x, Int.lt_floor_add_one x⟩

/-- Settles O30: the truncation error of the product, divided by the multiplier. -/
theorem setpointRoundTripExact : Obligations.SetpointRoundTripExact := by
  unfold Obligations.SetpointRoundTripExact
  intro arith v m b hm hreal harith hb
  have hm' : (0 : ℚ) < m := Nat.cast_pos.mpr hm
  have hexact : scaledBody .exact v m = some b := by
    rcases harith with rfl | ⟨rfl, hlt⟩
    · exact hb
    · rw [← binary64ScalingAgreesWithExact v m hlt, hb]
  obtain ⟨-, hbody⟩ := (exactScalingTruncatesTheProduct v m b).mp hexact
  obtain ⟨hlo, hhi⟩ := isBody_bounds (mul_nonneg hreal hm'.le) hbody
  rw [sub_nonneg, div_le_iff₀ hm', sub_lt_iff_lt_add, ← add_div, lt_div_iff₀ hm']
  exact ⟨hlo, by linarith⟩

/-- Settles O31: half a unit of the product from the rounding, then the truncation, divided by the multiplier. -/
theorem setpointRoundTripBinary32 : Obligations.SetpointRoundTripBinary32 := by
  unfold Obligations.SetpointRoundTripBinary32
  intro v m b hm hreal hb
  have hm' : (0 : ℚ) < m := Nat.cast_pos.mpr hm
  obtain ⟨-, d, hd, hbody⟩ := (scaledBody_rounded_iff_of_ratio rounds_binary32 v m b (productOf v m)
    (productOf_den_pos v m) (ratio_productOf_eq_abs v m)).mp hb
  rw [if_neg hreal.not_gt] at hbody
  obtain ⟨hlo, hhi⟩ := isBody_bounds (dyad_nonneg d) hbody
  have hval : Expect.ratio (productOf v m) = Expect.real v * m := by
    rw [ratio_productOf_eq_abs, abs_of_nonneg (mul_nonneg hreal hm'.le)]
  have hnear := round_binary32_near (productOf_den_pos v m) hd
  rw [hval] at hnear
  obtain ⟨hbelow, habove⟩ := abs_le.mp hnear
  constructor
  · rw [← div_div, div_le_iff₀ hm', sub_mul, div_mul_cancel₀ _ hm'.ne']
    linarith
  · rw [lt_div_iff₀ hm', sub_mul, div_mul_cancel₀ _ hm'.ne']
    linarith

end Sys2Proof.Proofs.SetPointScaling

/-! Settles O32 to O35: the mode and power commands (42_encoder_control.md R170 to R180). All but MODEAUTO send one control
frame under either protocol; MODEAUTO does under the protocol that has the auto mode. -/

namespace Sys2Proof.Proofs.ModeAndPower

open Sys2Proof Sys2Proof.Machine Sys2Proof.Proofs.SentFrames Sys2Proof.Proofs.Transactions

/-! ## The frames -/

/-- A mode frame is the control frame of R170: mode code, zero extended mode. -/
theorem modeFrame_eq_sent (mode : Half) (addr : Byte) (s : State) :
    modeFrame mode addr s =
      Expect.sent s (Expect.control s s.cfg.codesA.mode s.cfg.codesB.mode (mode.setWidth 32) addr) :=
  controlFrame_eq_sent (code := codeMode s.cfg) rfl rfl _ addr s

/-- A power frame is the control frame of R177: power code, zero extended sentinel. -/
theorem powerFrame_eq_sent (sentinel : Byte) (addr : Byte) (s : State) :
    powerFrame sentinel addr s =
      Expect.sent s (Expect.control s s.cfg.codesA.power s.cfg.codesB.power (sentinel.setWidth 32) addr) :=
  controlFrame_eq_sent (code := codePower s.cfg) rfl rfl _ addr s

/-- Settles O32: both are mode frames, of the table's two modes. -/
theorem modeLowAndHighFrames : Obligations.ModeLowAndHighFrames := by
  unfold Obligations.ModeLowAndHighFrames
  intro s addr
  rw [table_eq_tableOf]
  exact ⟨congrArg Host.Outcome.next (modeFrame_eq_sent _ addr s), congrArg Host.Outcome.next (modeFrame_eq_sent _ addr s)⟩

/-- Settles O35: both are power frames, of the table's two sentinels. -/
theorem powerFrames : Obligations.PowerFrames := by
  unfold Obligations.PowerFrames
  intro s addr
  rw [table_eq_tableOf]
  exact ⟨congrArg Host.Outcome.next (powerFrame_eq_sent _ addr s),
    congrArg Host.Outcome.next (powerFrame_eq_sent _ addr s)⟩

/-! ## MODEAUTO -/

theorem exec_modeauto_of_supported {s : State} (addr : Byte) (h : autoSupported s.cfg s.proto = true) :
    exec (.modeauto addr) s = .next (modeFrame Config.modeAuto addr s) := by
  rw [exec, execModeauto, if_pos h]

theorem exec_modeauto_of_unsupported {s : State} (addr : Byte) (h : autoSupported s.cfg s.proto = false) :
    exec (.modeauto addr) s = .next (unsupported s) := by
  rw [exec, execModeauto, if_neg (by simp [h])]

/-- Settles O33: the two cases are the two values of `AUTO_SUP` for the selected protocol (K7 of R95). -/
theorem modeAutoFrameOrUnsupported : Obligations.ModeAutoFrameOrUnsupported := by
  unfold Obligations.ModeAutoFrameOrUnsupported
  refine fun s addr => ⟨fun h => ?_, fun h => ?_⟩
  · have hsup : autoSupported s.cfg s.proto = true := by
      rcases h with ⟨hp, ha⟩ | ⟨hp, ha⟩ <;> simp [autoSupported, hp, ha]
    rw [exec_modeauto_of_supported addr hsup, modeFrame_eq_sent]
    rfl
  · have hsup : autoSupported s.cfg s.proto = false := by
      rcases h with ⟨hp, ha⟩ | ⟨hp, ha⟩ <;> simp [autoSupported, hp, ha]
    exact exec_modeauto_of_unsupported addr hsup

/-! ## The UNSUPPORTED outcome -/

theorem parseFrame_status_ne_unsupported (c : Cfg) (p : Protocol) (f : Frame) :
    (parseFrame c p f).status ≠ stUnsupported := by
  rcases parseFrame_cases c p f with ⟨-, e⟩ | ⟨-, -, e⟩ | ⟨-, x, -, e⟩ <;>
    simp [e, stInvalidFrame, stUnknownCmd, stOk, stUnsupported]

theorem stFrame_ne_stUnsupported : stFrame ≠ stUnsupported := by decide

/-- Of the cases of a command only MODEAUTO's own writes UNSUPPORTED (R175). -/
theorem eq_modeauto_of_unsupported {i : Instr} {s t : State} (h : exec i s = .next t) (hst : t.status = stUnsupported) :
    ∃ addr, i = .modeauto addr := by
  rcases exec_cases h with ⟨tag, -, rfl⟩ | ⟨-, -, rfl⟩ | ⟨addr, rfl, -⟩ | ⟨_, _, _, _, _, -, -, -, rfl⟩
  · rcases selectProtocol_status tag s with e | e <;> exact absurd (e.symm.trans hst) (by decide)
  · exact absurd hst (parseFrame_status_ne_unsupported _ _ _)
  · exact ⟨addr, rfl⟩
  · exact absurd hst stFrame_ne_stUnsupported

/-- MODEAUTO answers UNSUPPORTED exactly under the protocol without auto mode (R173, R174). -/
theorem exec_modeauto_status (addr : Byte) (s : State) :
    ∃ t, exec (.modeauto addr) s = .next t ∧ (t.status = stUnsupported ↔ autoSupported s.cfg s.proto = false) := by
  cases h : autoSupported s.cfg s.proto with
  | true => exact ⟨_, exec_modeauto_of_supported addr h, iff_of_false stFrame_ne_stUnsupported (by decide)⟩
  | false => exact ⟨_, exec_modeauto_of_unsupported addr h, iff_of_true rfl rfl⟩

/-- Exactly one protocol has auto mode (K7 of R95). -/
theorem autoSupported_A_eq_not_B (c : Cfg) : autoSupported c .A = !autoSupported c .B := (Bool.not_not _).symm

/-- Settles O34: UNSUPPORTED is MODEAUTO's alone; `AUTO_SUP` holds for one protocol; the other encoder commands send a
frame. -/
theorem onlyModeAutoCanBeUnsupported : Obligations.OnlyModeAutoCanBeUnsupported := by
  unfold Obligations.OnlyModeAutoCanBeUnsupported
  refine ⟨fun i s t => eq_modeauto_of_unsupported, fun addr s => ?_, fun i s hsel hparse hauto => ?_⟩
  · obtain ⟨t, ht, htst⟩ := exec_modeauto_status addr { s with proto := .A }
    obtain ⟨u, hu, hust⟩ := exec_modeauto_status addr { s with proto := .B }
    refine ⟨t, u, ht, hu, htst.trans (Iff.trans ?_ (not_congr hust).symm)⟩
    simp only [autoSupported_A_eq_not_B, Bool.not_eq_false', Bool.not_eq_false]
  · obtain ⟨t, ht⟩ := exec_completes i s hparse
    rcases exec_cases ht with ⟨tag, hi, -⟩ | ⟨hi, -⟩ | ⟨addr, hi, -⟩ | ⟨_, _, _, _, _, -, -, -, rfl⟩
    · exact absurd hi (hsel tag)
    · exact absurd hi hparse
    · exact absurd hi (hauto addr)
    · exact ⟨_, ht, rfl, rfl⟩

end Sys2Proof.Proofs.ModeAndPower

/-! Settles O38 to O45 and O47: what PARSE leaves for each of the decoder's three answers, spelled out as the rules do
(43_decoder.md R190 to R210). The outcome and the measurement depend on the identifier, the length, the command code and the
raw value alone. -/

namespace Sys2Proof.Proofs.Decoder

open Sys2Proof Sys2Proof.Machine Sys2Proof.Proofs.Transactions Sys2Proof.Proofs.Requests

/-! ## The decoder's three answers -/

theorem parseFrame_of_foreign {c : Cfg} {p : Protocol} {f : Frame} (hm : frameMatches c p f = false) :
    parseFrame c p f = ⟨stInvalidFrame, Measurement.cleared, f⟩ := by
  rcases parseFrame_cases c p f with ⟨-, e⟩ | ⟨hm', -⟩ | ⟨hm', -⟩
  · exact e
  · cases hm.symm.trans hm'
  · cases hm.symm.trans hm'

theorem parseFrame_of_unknown {c : Cfg} {p : Protocol} {f : Frame} (hm : frameMatches c p f = true)
    (hc : classify c p (payloadCode p f.data) = none) :
    parseFrame c p f = ⟨stUnknownCmd, Measurement.cleared, sanitizeFrame p f⟩ := by
  rcases parseFrame_cases c p f with ⟨hm', -⟩ | ⟨-, -, e⟩ | ⟨-, x, hx, -⟩
  · cases hm.symm.trans hm'
  · exact e
  · cases hc.symm.trans hx

theorem parseFrame_of_field {c : Cfg} {p : Protocol} {f : Frame} {x : MeasField} (hm : frameMatches c p f = true)
    (hc : classify c p (payloadCode p f.data) = some x) :
    parseFrame c p f = ⟨stOk, measurementOf c p x (idAddr p f.id) (rawValue f.data), sanitizeFrame p f⟩ := by
  rcases parseFrame_cases c p f with ⟨hm', -⟩ | ⟨-, hx, -⟩ | ⟨-, y, hy, e⟩
  · cases hm.symm.trans hm'
  · cases hc.symm.trans hx
  · cases hc.symm.trans hy
    exact e

/-- Once `RXF` is written, PARSE answers with what the decoder returns (R190). -/
theorem exec_parse {s : State} (hw : s.rxw = true) :
    exec .parse s = .next (takeParsed (parseFrame s.cfg s.proto s.rxf) s) :=
  execParse_eq_next.mpr ⟨hw, rfl⟩

theorem exec_parse_of_parseFrame {s : State} {r : Parsed} (hw : s.rxw = true) (h : parseFrame s.cfg s.proto s.rxf = r) :
    exec .parse s = .next (takeParsed r s) := h ▸ exec_parse hw

theorem frameMatches_eq_false_iff (s : State) : frameMatches s.cfg s.proto s.rxf = false ↔ ¬ Expect.accepted s := by
  rw [← frameMatches_iff_accepted, Bool.not_eq_true]

/-! ## The decoder's parts against the rules' text -/

theorem cleaned_eq_sanitizeFrame (s : State) : Expect.cleaned s = sanitizeFrame s.proto s.rxf := by
  unfold Expect.cleaned sanitizeFrame
  cases s.proto <;> rfl

/-- Shifting one field over the other and joining them puts them one after the other. -/
theorem shiftLeft_or_eq_append {n m : Nat} (w : Nat) (a : BitVec n) (b : BitVec m) :
    a.setWidth w <<< m ||| b.setWidth w = (a ++ b).setWidth w := by
  ext i hi
  simp only [BitVec.getElem_or, BitVec.getElem_shiftLeft, BitVec.getElem_setWidth, BitVec.getLsbD_append]
  by_cases hm : i < m
  · simp [hm]
  · simp [hm, BitVec.getLsbD_of_ge b i (Nat.not_lt.mp hm)]

/-- The raw value by shifts is the four bytes in order (R197). -/
theorem raw_eq_rawValue (d : Payload) : Expect.raw d = rawValue d := by
  have hshift : Expect.raw d =
      ((d.d4.setWidth 32 <<< 8 ||| d.d5.setWidth 32) <<< 8 ||| d.d6.setWidth 32) <<< 8 ||| d.d7.setWidth 32 := by
    simp only [Expect.raw, BitVec.shiftLeft_or_distrib, ← BitVec.shiftLeft_add]
  rw [hshift, shiftLeft_or_eq_append, shiftLeft_or_eq_append, shiftLeft_or_eq_append]
  exact BitVec.setWidth_eq _

/-- The seven address bits of the identifier, as a byte (R193). -/
theorem address_eq_idAddr (s : State) : Expect.address s = (idAddr s.proto s.rxf.id).setWidth 8 := by
  have hfield (id : Word) (n : Nat) : ((id >>> n) &&& 0x7F#32).setWidth 8 = (id.extractLsb' n 7).setWidth 8 := by
    have hmask : ∀ i < 8, (0x7F#32).getLsbD i = decide (i < 7) := by decide
    ext i hi
    simp only [BitVec.getElem_setWidth, BitVec.getLsbD_and, BitVec.getLsbD_ushiftRight, BitVec.getLsbD_extractLsb',
      hmask i hi, Bool.and_comm]
  cases hp : s.proto <;> simp only [Expect.address, hp, hfield] <;> rfl

/-- `RXF` carries the read code of `x`, whose codes under the two protocols are `a` and `b` (R89, R93). -/
theorem carries_iff {s : State} {x : MeasField} {a : Byte} {b : Half} (hA : readCode s.cfg .A x = a.setWidth 16)
    (hB : readCode s.cfg .B x = b) : Expect.carries s a b ↔ payloadCode s.proto s.rxf.data = readCode s.cfg s.proto x := by
  cases hp : s.proto with
  | A =>
    have hwiden : Function.Injective (BitVec.setWidth 16 : Byte → Half) := fun a b h => by
      simpa using congrArg (BitVec.setWidth 8) h
    simp only [Expect.carries, hp, hA, payloadCode, hwiden.eq_iff]
  | B => simp only [Expect.carries, hp, hB, payloadCode, shiftLeft_or_eq_append, BitVec.setWidth_eq]

/-! ## Frames without a measurement -/

/-- Settles O38: the matcher fails, so the decoder returns `RXF` as it is. -/
theorem parseOfAForeignFrameIsInvalid : Obligations.ParseOfAForeignFrameIsInvalid :=
  fun s hw hforeign => exec_parse_of_parseFrame hw (parseFrame_of_foreign ((frameMatches_eq_false_iff s).mpr hforeign))

/-- Settles O39: the five codes are the model's read codes, so the router answers nothing. -/
theorem parseOfAnUnknownCode : Obligations.ParseOfAnUnknownCode := by
  unfold Obligations.ParseOfAnUnknownCode
  intro s hw hacc hcodes
  simp only [List.forall_mem_cons, List.not_mem_nil, false_implies, implies_true, and_true] at hcodes
  obtain ⟨hvolt, hcurr, htemp, hflags, hcap⟩ := hcodes
  have hclass : classify s.cfg s.proto (payloadCode s.proto s.rxf.data) = none := by
    refine (classify_eq_none ..).mpr fun x hx => ?_
    cases x with
    | volt => exact hvolt ((carries_iff rfl rfl).mpr hx.symm)
    | curr => exact hcurr ((carries_iff rfl rfl).mpr hx.symm)
    | temp => exact htemp ((carries_iff rfl rfl).mpr hx.symm)
    | flags => exact hflags ((carries_iff rfl rfl).mpr hx.symm)
    | cap => exact hcap ((carries_iff rfl rfl).mpr hx.symm)
  rw [cleaned_eq_sanitizeFrame]
  exact exec_parse_of_parseFrame hw (parseFrame_of_unknown ((frameMatches_iff_accepted s).mpr hacc) hclass)

/-! ## Readings -/

/-- The measurement registers after a reading of `x`: the address, the presence set and one value (R203 to R208). -/
def reading (s : State) : MeasField → Measurement
  | .volt => { Expect.present s 0x03 with v := scaleFloat s.cfg (Expect.table s).divV (Expect.raw s.rxf.data) }
  | .curr => { Expect.present s 0x05 with i := scaleFloat s.cfg (Expect.table s).divI (Expect.raw s.rxf.data) }
  | .temp => { Expect.present s 0x09 with t := scaleTemp (Expect.table s).divT (Expect.raw s.rxf.data) }
  | .flags => { Expect.present s 0x11 with s := Expect.raw s.rxf.data }
  | .cap => { Expect.present s 0x21 with c := scaleFloat s.cfg (Expect.table s).divC (Expect.raw s.rxf.data) }

theorem measurementOf_eq_reading (s : State) (x : MeasField) :
    measurementOf s.cfg s.proto x (idAddr s.proto s.rxf.id) (rawValue s.rxf.data) = reading s x := by
  cases x <;> simp only [reading, Expect.present, table_eq_tableOf, address_eq_idAddr, raw_eq_rawValue] <;> rfl

/-- An accepted frame that the router sends to `x` (R194, R208). -/
theorem exec_parse_of_classify {s : State} {x : MeasField} (hw : s.rxw = true) (hacc : Expect.accepted s)
    (hx : classify s.cfg s.proto (payloadCode s.proto s.rxf.data) = some x) :
    exec .parse s = .next (Expect.measured s (reading s x)) := by
  rw [exec_parse_of_parseFrame hw (parseFrame_of_field ((frameMatches_iff_accepted s).mpr hacc) hx),
    measurementOf_eq_reading, Expect.measured, cleaned_eq_sanitizeFrame]
  rfl

/-- An accepted frame with the read code of `x`: by K5 the router sends it to `x` (R93, R194). -/
theorem exec_parse_of_carries {s : State} {x : MeasField} {a : Byte} {b : Half} (hc : s.cfg.valid = true)
    (hw : s.rxw = true) (hacc : Expect.accepted s) (hcarries : Expect.carries s a b)
    (hA : readCode s.cfg .A x = a.setWidth 16) (hB : readCode s.cfg .B x = b) :
    exec .parse s = .next (Expect.measured s (reading s x)) :=
  exec_parse_of_classify hw hacc (by rw [(carries_iff hA hB).mp hcarries, classify_readCode hc])

/-- The voltage code comes first in the order of classification, whatever the other codes are (R194). -/
theorem classify_readCode_volt (c : Cfg) (p : Protocol) : classify c p (readCode c p .volt) = some .volt := by
  simp [classify]

/-- Settles O40: no other code can take a voltage frame. -/
theorem parseOfAVoltageFrame : Obligations.ParseOfAVoltageFrame :=
  fun _ hw hacc hcarries => exec_parse_of_classify (x := .volt) hw hacc
    (by rw [(carries_iff (x := .volt) rfl rfl).mp hcarries, classify_readCode_volt])

/-- Settles O41: the reading of the current field. -/
theorem parseOfACurrentFrame : Obligations.ParseOfACurrentFrame :=
  fun _ hc hw hacc hcarries => exec_parse_of_carries (x := .curr) hc hw hacc hcarries rfl rfl

/-- Settles O42: the reading of the temperature field, whose truncated quotient fits 32 bits. -/
theorem parseOfATemperatureFrame : Obligations.ParseOfATemperatureFrame :=
  fun _ hc hw hacc hcarries =>
    ⟨_, exec_parse_of_carries (x := .temp) hc hw hacc hcarries rfl rfl, scaleTemp_toInt _ _⟩

/-- Settles O43: the reading of the status field. -/
theorem parseOfAStatusFrame : Obligations.ParseOfAStatusFrame :=
  fun _ hc hw hacc hcarries => exec_parse_of_carries (x := .flags) hc hw hacc hcarries rfl rfl

/-- Settles O44: the reading of the capability field. -/
theorem parseOfACapabilityFrame : Obligations.ParseOfACapabilityFrame :=
  fun _ hc hw hacc hcarries => exec_parse_of_carries (x := .cap) hc hw hacc hcarries rfl rfl

/-! ## Every loaded frame -/

/-- Settles O45: PARSE takes over what the decoder returns; of its answers the one to a foreign frame keeps `RXF`, the
others sanitize it. -/
theorem parseCompletesAndTouchesOnlyItsRegisters : Obligations.ParseCompletesAndTouchesOnlyItsRegisters := by
  unfold Obligations.ParseCompletesAndTouchesOnlyItsRegisters
  intro s hw
  refine ⟨_, exec_parse hw, rfl, ?_⟩
  simp only [takeParsed_rxf, takeParsed_status, cleaned_eq_sanitizeFrame, ← frameMatches_iff_accepted]
  rcases parseFrame_cases s.cfg s.proto s.rxf with ⟨hm, e⟩ | ⟨hm, -, e⟩ | ⟨hm, x, -, e⟩ <;> rw [e, hm]
  · exact ⟨fun h => absurd h (by decide), fun _ => rfl, .inr (.inr rfl)⟩
  · exact ⟨fun _ => rfl, fun h => absurd rfl h, .inr (.inl rfl)⟩
  · exact ⟨fun _ => rfl, fun h => absurd rfl h, .inl rfl⟩

/-- The outcome and the measurement of a frame depend on its identifier, its length, its command code and its raw value
alone (R198). -/
theorem parseFrame_outcome_congr {c : Cfg} {p : Protocol} {f g : Frame} (hid : f.id = g.id) (hlen : f.len = g.len)
    (hcode : payloadCode p f.data = payloadCode p g.data) (hraw : rawValue f.data = rawValue g.data) :
    (parseFrame c p f).status = (parseFrame c p g).status ∧ (parseFrame c p f).meas = (parseFrame c p g).meas := by
  have hmatch : frameMatches c p f = frameMatches c p g := by rw [frameMatches, frameMatches, hid, hlen]
  rcases parseFrame_cases c p f with ⟨hm, e⟩ | ⟨hm, hx, e⟩ | ⟨hm, x, hx, e⟩
  · rw [e, parseFrame_of_foreign (hmatch ▸ hm)]
    exact ⟨rfl, rfl⟩
  · rw [e, parseFrame_of_unknown (hmatch ▸ hm) (hcode ▸ hx)]
    exact ⟨rfl, rfl⟩
  · rw [e, parseFrame_of_field (hmatch ▸ hm) (hcode ▸ hx), hid, hraw]
    exact ⟨rfl, rfl⟩

/-- Settles O47: the replaced bytes hold neither the command code nor the raw value, under either protocol. -/
theorem parseIgnoresPreambleAndMarkers : Obligations.ParseIgnoresPreambleAndMarkers := by
  unfold Obligations.ParseIgnoresPreambleAndMarkers
  intro s x y z hw
  refine ⟨_, _, exec_parse hw, exec_parse hw, ?_⟩
  simp only [takeParsed_status, takeParsed_meas]
  refine parseFrame_outcome_congr ?_ ?_ ?_ ?_
  · rfl
  · rfl
  · cases s.proto <;> rfl
  · cases s.proto <;> rfl

end Sys2Proof.Proofs.Decoder

/-! Settles O52, O53 and O54: the float registers as correctly rounded quotients (43_decoder.md R201, R202, log 12, log 18).

The idea: a rounded binary32 magnitude is normalised, so its pattern is read back as that magnitude with the sign given; and
the sign of the raw value passes through every rounding. Raw values stay far below the overflow bounds. -/

namespace Sys2Proof.Proofs.FloatRegisters

open Sys2Proof Sys2Proof.Machine Sys2Proof.Proofs.Rounding Sys2Proof.Proofs.SetPointScaling

/-! ## Rounded magnitudes are normalised -/

/-- A full significand, or the smallest exponent. -/
def Normalised (fmt : FloatFormat) (d : Dyad) : Prop := 2 ^ (fmt.prec - 1) ≤ d.sig ∨ d.exp = fmt.minExp

/-- At or above the start of its binade a value rounds to a full significand. -/
theorem le_roundedSig {fmt : FloatFormat} {x : Ratio} (hp : 0 < fmt.prec) (hn : x.num ≠ 0) (hd : 0 < x.den)
    (hlast : x.lastPlace fmt ≠ fmt.minExp) : 2 ^ (fmt.prec - 1) ≤ roundedSig fmt x := by
  have hpos : (0 : ℚ) < (2 : ℚ) ^ x.lastPlace fmt := by positivity
  have hfull : ((2 ^ (fmt.prec - 1) : Nat) : ℚ) ≤ inUlps fmt x := by
    have hstart := le_ratio_of_lastPlace hn hd hlast
    have hpred : (fmt.prec : ℤ) - 1 = (fmt.prec - 1 : Nat) := by omega
    rw [← inUlps_mul fmt x, zpow_add₀ two_ne_zero, mul_comm, mul_le_mul_iff_left₀ hpos, hpred, zpow_natCast] at hstart
    exact_mod_cast hstart
  have hnear := halfEven_near (x.scalePow (-(x.lastPlace fmt))).num (scalePow_den_pos hd (-(x.lastPlace fmt)))
  rw [scalePow_eq_inUlps] at hnear
  have hbelow : inUlps fmt x - 1 / 2 ≤ roundedSig fmt x := by
    have := (abs_le.mp hnear).1
    unfold roundedSig
    linarith
  have hlt : ((2 ^ (fmt.prec - 1) : Nat) : ℚ) < (roundedSig fmt x + 1 : Nat) := by
    rw [Nat.cast_succ]
    linarith
  exact Nat.lt_succ_iff.mp (by exact_mod_cast hlt)

theorem round_normalised {fmt : FloatFormat} (hp : 0 < fmt.prec) {x : Ratio} (hd : 0 < x.den) {d : Dyad}
    (h : fmt.round x = some d) : Normalised fmt d := by
  by_cases hn : x.num = 0
  · obtain rfl := Option.some.inj ((round_of_zero hn).symm.trans h)
    exact .inr rfl
  · obtain ⟨hcases, -, -⟩ := fit_eq_some hp ((round_eq_fit hn).symm.trans h)
    rcases hcases with ⟨-, rfl⟩ | ⟨-, rfl⟩
    · exact .inl le_rfl
    · exact or_iff_not_imp_right.mpr (le_roundedSig hp hn hd)

/-! ## The pattern of a rounded magnitude -/

/-- Exponent and significand side by side, as in a binary32 pattern without its sign. -/
def patternBody (d : Dyad) : Nat := (d.exp + 149).toNat * 2 ^ 23 + d.sig

theorem patternBody_lt {d : Dyad} (hr : Expect.representable Machine.binary32 d) : patternBody d < 0x7F800000 := by
  obtain ⟨hsig, hlo, hhi⟩ := hr
  simp only [Machine.binary32] at hsig hlo hhi
  unfold patternBody
  omega

theorem pack32_toNat {neg : Bool} {d : Dyad} (hr : Expect.representable Machine.binary32 d) :
    (pack32 neg (some d)).toNat = patternBody d + if neg then 2 ^ 31 else 0 := by
  have hlt := patternBody_lt hr
  show (BitVec.ofNat 32 (patternBody d + _)).toNat = _
  rw [BitVec.toNat_ofNat, Nat.mod_eq_of_lt]
  cases neg <;> simp <;> omega

theorem signOf_pack32 {neg : Bool} {d : Dyad} (hr : Expect.representable Machine.binary32 d) :
    signOf (pack32 neg (some d)) = neg := by
  have hlt := patternBody_lt hr
  have hnat := pack32_toNat (neg := neg) hr
  rw [signOf, BitVec.getLsbD, Nat.testBit_eq_decide_div_mod_eq, hnat]
  cases neg <;> simp <;> omega

theorem expField_pack32 {neg : Bool} {d : Dyad} (hr : Expect.representable Machine.binary32 d) :
    expField (pack32 neg (some d)) = patternBody d / 2 ^ 23 := by
  have hlt := patternBody_lt hr
  have hnat := pack32_toNat (neg := neg) hr
  rw [expField_eq, BitVec.toNat_ushiftRight, Nat.shiftRight_eq_div_pow, hnat]
  cases neg <;> simp <;> omega

theorem fracField_pack32 {neg : Bool} {d : Dyad} (hr : Expect.representable Machine.binary32 d) :
    fracField (pack32 neg (some d)) = d.sig % 2 ^ 23 := by
  have hnat := pack32_toNat (neg := neg) hr
  rw [fracField_eq, hnat, patternBody]
  cases neg with
  | false => simp
  | true => simp; omega

/-- The last bit of the pattern is that of the significand: an even one leaves it clear. -/
theorem getLsbD_zero_pack32 {neg : Bool} {d : Dyad} (hr : Expect.representable Machine.binary32 d) (heven : d.sig % 2 = 0) :
    (pack32 neg (some d)).getLsbD 0 = false := by
  have hnat := pack32_toNat (neg := neg) hr
  rw [BitVec.getLsbD, Nat.testBit_eq_decide_div_mod_eq, hnat, patternBody]
  cases neg <;> simp <;> omega

theorem finite_pack32 {neg : Bool} {d : Dyad} (hr : Expect.representable Machine.binary32 d) :
    Expect.finite (pack32 neg (some d)) := by
  have hlt := patternBody_lt hr
  rw [Expect.finite, ← expField_eq, expField_pack32 hr]
  omega

/-- A normalised magnitude is read back from its pattern. -/
theorem magnitude32_pack32 {neg : Bool} {d : Dyad} (hr : Expect.representable Machine.binary32 d)
    (hnorm : Normalised Machine.binary32 d) : magnitude32 (pack32 neg (some d)) = d := by
  rw [magnitude32, expField_pack32 hr, fracField_pack32 hr]
  obtain ⟨hsig, hlo, -⟩ := hr
  simp only [Machine.binary32] at hsig hlo
  rcases lt_or_ge d.sig (2 ^ 23) with hsub | hfull
  · have hexp : d.exp = -149 := hnorm.resolve_left (not_le.mpr hsub)
    have hbody : patternBody d / 2 ^ 23 = 0 := by unfold patternBody; omega
    rw [hbody, if_pos rfl, Nat.mod_eq_of_lt hsub, ← hexp]
  · have hbody : ((patternBody d / 2 ^ 23 : Nat) : Int) = d.exp + 150 := by unfold patternBody; omega
    have hne : patternBody d / 2 ^ 23 ≠ 0 := by omega
    have hfrac : 2 ^ 23 + d.sig % 2 ^ 23 = d.sig := by omega
    rw [if_neg hne, hfrac, hbody, add_sub_cancel_right]

theorem real_pack32 {neg : Bool} {d : Dyad} (hr : Expect.representable Machine.binary32 d)
    (hnorm : Normalised Machine.binary32 d) :
    Expect.real (pack32 neg (some d)) = signed neg (Expect.dyad d) := by
  rw [real_eq_signed, signOf_pack32 hr, magnitude32_pack32 hr hnorm]

theorem magnitude32_representable {v : Word} (h : Expect.finite v) : Expect.representable Machine.binary32 (magnitude32 v) :=
  magnitude32_bounds h

/-! ## Nearest with a sign -/

theorem abs_signed_sub_signed (neg : Bool) (x y : ℚ) : |signed neg x - signed neg y| = |x - y| := by
  cases neg with
  | false => rfl
  | true => rw [signed, signed, if_pos rfl, if_pos rfl, neg_sub_neg, abs_sub_comm]

/-- Values of opposite signs are as far apart as their magnitudes together. -/
theorem abs_signed_not_sub_signed (neg : Bool) {x y : ℚ} (hx : 0 ≤ x) (hy : 0 ≤ y) :
    |signed (!neg) x - signed neg y| = x + y := by
  cases neg with
  | false =>
    show |-x - y| = x + y
    rw [abs_of_nonpos (by linarith)]
    ring
  | true =>
    show |x - -y| = x + y
    rw [sub_neg_eq_add, abs_of_nonneg (add_nonneg hx hy)]

/-- The pattern of a rounded magnitude is the nearest binary32 to that magnitude with its sign: a value of the other sign
is no nearer than zero. -/
theorem nearest32_pack32 (neg : Bool) {x : Ratio} (hd : 0 < x.den) {d : Dyad} (h : Machine.binary32.round x = some d) :
    Expect.nearest32 (pack32 neg (some d)) (signed neg (Expect.ratio x)) := by
  obtain ⟨hrep, hnearest⟩ := round_nearest_even (by decide) (by decide) hd h
  have hreal : Expect.real (pack32 neg (some d)) = signed neg (Expect.dyad d) :=
    real_pack32 hrep (round_normalised (by decide) hd h)
  refine ⟨finite_pack32 hrep, fun w' hfin => ?_⟩
  obtain ⟨hle, htie⟩ := hnearest _ (magnitude32_representable hfin)
  rw [hreal, real_eq_signed w', abs_signed_sub_signed]
  by_cases hs : signOf w' = neg
  · rw [hs, abs_signed_sub_signed]
    exact ⟨hle, fun heq hne => getLsbD_zero_pack32 hrep (htie heq fun e => hne (by rw [e]))⟩
  · obtain ⟨hzero, hzerotie⟩ := hnearest ⟨0, -149⟩ ⟨by decide, by decide, by decide⟩
    have hmag := dyad_nonneg (magnitude32 w')
    have hdz : Expect.dyad ⟨0, -149⟩ = 0 := by simp [Expect.dyad]
    rw [hdz, zero_sub, abs_neg, abs_of_nonneg (ratio_nonneg x)] at hzero hzerotie
    rw [Bool.eq_not.mpr hs, abs_signed_not_sub_signed neg hmag (ratio_nonneg x)]
    refine ⟨by linarith, fun heq hne => getLsbD_zero_pack32 hrep (hzerotie (by linarith) fun e => hne ?_)⟩
    have hmag0 : Expect.dyad (magnitude32 w') = 0 := by linarith
    rw [e, hmag0]
    cases neg <;> simp [signed]

/-! ## The raw value and its quotients -/

/-- The magnitude of `rawF(r)`. -/
def wholeRaw (sgn : Bool) (r : Word) : Ratio := ⟨(rawFloat sgn r).2, 1⟩

theorem convFloat_single (sgn : Bool) (r : Word) (div : Nat) :
    convFloat .single sgn r div = pack32 (rawFloat sgn r).1 (Machine.binary32.round ((wholeRaw sgn r).divNat div)) := rfl

theorem convFloat_f32TwoStep (sgn : Bool) (r : Word) (div : Nat) {d : Dyad}
    (h : Machine.binary32.round (wholeRaw sgn r) = some d) :
    convFloat .f32TwoStep sgn r div = pack32 (rawFloat sgn r).1 (Machine.binary32.round (d.toRatio.divNat div)) := by
  show pack32 _ (roundTwice (Machine.binary32.round (wholeRaw sgn r)) _) = _
  rw [h]
  rfl

theorem convFloat_f64ThenF32 (sgn : Bool) (r : Word) (div : Nat) {d : Dyad}
    (h : Machine.binary64.round ((wholeRaw sgn r).divNat div) = some d) :
    convFloat .f64ThenF32 sgn r div = pack32 (rawFloat sgn r).1 (Machine.binary32.round d.toRatio) := by
  show pack32 _ (roundTwice (Machine.binary64.round ((wholeRaw sgn r).divNat div)) _) = _
  rw [h]
  rfl

theorem ratio_wholeRaw (sgn : Bool) (r : Word) : Expect.ratio (wholeRaw sgn r) = (rawFloat sgn r).2 := by
  simp [Expect.ratio, wholeRaw]

theorem rawFloat_le (sgn : Bool) (r : Word) : (rawFloat sgn r).2 ≤ 2 ^ 32 := by
  have hr := r.isLt
  unfold rawFloat
  split
  · exact Nat.sub_le _ _
  · exact hr.le

theorem rawF_eq_signed (sgn : Bool) (r : Word) : Expect.rawF sgn r = signed (rawFloat sgn r).1 (rawFloat sgn r).2 := by
  cases sgn with
  | false => rfl
  | true =>
    have hr := r.isLt
    cases hm : r.msb with
    | false => simp [Expect.rawF, rawFloat, hm, signed, BitVec.toInt_eq_msb_cond]
    | true =>
      have hint : r.toInt = (r.toNat : Int) - 2 ^ 32 := by simp [BitVec.toInt_eq_msb_cond, hm]
      have hraw : rawFloat true r = (true, 2 ^ 32 - r.toNat) := by simp [rawFloat, hm]
      rw [Expect.rawF, if_pos rfl, hint, hraw, signed, if_pos rfl, Nat.cast_sub hr.le]
      push_cast
      ring

theorem ratio_divNat (x : Ratio) (m : Nat) : Expect.ratio (x.divNat m) = Expect.ratio x / m := divNat_value x m

theorem signed_div (neg : Bool) (x y : ℚ) : signed neg x / y = signed neg (x / y) := by
  rw [div_eq_mul_inv, signed_mul, div_eq_mul_inv]

/-- The quotient of a float register is the signed quotient of the magnitude (R201, R202). -/
theorem rawF_div_eq_signed (sgn : Bool) (r : Word) (div : Nat) :
    Expect.rawF sgn r / div = signed (rawFloat sgn r).1 (Expect.ratio ((wholeRaw sgn r).divNat div)) := by
  rw [rawF_eq_signed, signed_div, ratio_divNat, ratio_wholeRaw]

/-! ## Nothing overflows -/

theorem divNat_den_pos {x : Ratio} {m : Nat} (hd : 0 < x.den) (hm : 0 < m) : 0 < (x.divNat m).den := Nat.mul_pos hd hm

theorem div_natCast_le {x : ℚ} {m : Nat} (hx : 0 ≤ x) (hm : 0 < m) : x / m ≤ x :=
  div_le_self hx (by exact_mod_cast hm)

/-- Every magnitude up to `2 ^ 33` rounds to a value of either format. -/
theorem exists_round {fmt : FloatFormat} (hfmt : fmt = Machine.binary32 ∨ fmt = Machine.binary64) {x : Ratio}
    (hd : 0 < x.den) (hx : Expect.ratio x ≤ 2 ^ 33) : ∃ d, fmt.round x = some d := by
  have hbound : (2 : ℚ) ^ 33 < overflowBound fmt := by
    refine lt_of_lt_of_le ?_ (le_overflowBound fmt)
    rw [← zpow_natCast]
    rcases hfmt with rfl | rfl <;> exact zpow_lt_zpow_right₀ one_lt_two (by decide)
  have hsome : fmt.round x ≠ none := fun hnone => by
    have hover : overflowBound fmt ≤ Expect.ratio x := by
      rcases hfmt with rfl | rfl <;> exact (round_eq_none_iff (by decide) (by decide) hd).mp hnone
    linarith
  exact Option.ne_none_iff_exists'.mp hsome

/-- Rounding moves a value no farther than to zero, so at most doubles it. -/
theorem dyad_le_of_round {fmt : FloatFormat} (hp : 1 < fmt.prec) (hexp : fmt.minExp ≤ fmt.maxExp) {x : Ratio}
    (hd : 0 < x.den) {d : Dyad} (h : fmt.round x = some d) : Expect.dyad d ≤ 2 * Expect.ratio x := by
  obtain ⟨hle, -⟩ := (round_nearest_even hp hexp hd h).2 ⟨0, fmt.minExp⟩ ⟨Nat.two_pow_pos _, le_rfl, hexp⟩
  have hzero : Expect.dyad ⟨0, fmt.minExp⟩ = 0 := by simp [Expect.dyad]
  rw [hzero, zero_sub, abs_neg, abs_of_nonneg (ratio_nonneg x)] at hle
  linarith [(abs_le.mp hle).2]

theorem ratio_wholeRaw_le (sgn : Bool) (r : Word) : Expect.ratio (wholeRaw sgn r) ≤ 2 ^ 32 := by
  rw [ratio_wholeRaw]
  exact_mod_cast rawFloat_le sgn r

theorem ratio_wholeRaw_divNat_le (sgn : Bool) (r : Word) {div : Nat} (hdiv : 0 < div) :
    Expect.ratio ((wholeRaw sgn r).divNat div) ≤ 2 ^ 32 := by
  rw [ratio_divNat]
  exact (div_natCast_le (ratio_nonneg _) hdiv).trans (ratio_wholeRaw_le sgn r)

/-! ## The three conversions -/

/-- Settles O52: one rounding of the quotient, read back from its pattern. -/
theorem singleConversionIsCorrectlyRounded : Obligations.SingleConversionIsCorrectlyRounded := by
  unfold Obligations.SingleConversionIsCorrectlyRounded
  intro sgn r div hdiv
  have hden : 0 < ((wholeRaw sgn r).divNat div).den := divNat_den_pos Nat.one_pos hdiv
  obtain ⟨d, hd⟩ := exists_round (.inl rfl) hden ((ratio_wholeRaw_divNat_le sgn r hdiv).trans (by norm_num))
  rw [convFloat_single, hd, rawF_div_eq_signed]
  exact nearest32_pack32 _ hden hd

theorem exists_round_wholeRaw (sgn : Bool) (r : Word) : ∃ d, Machine.binary32.round (wholeRaw sgn r) = some d :=
  exists_round (.inl rfl) Nat.one_pos ((ratio_wholeRaw_le sgn r).trans (by norm_num))

/-- SINGLE with the divisor 1 rounds the raw value alone (R202). -/
theorem real_convFloat_single_one {sgn : Bool} {r : Word} {d : Dyad}
    (h : Machine.binary32.round (wholeRaw sgn r) = some d) :
    Expect.real (convFloat .single sgn r 1) = signed (rawFloat sgn r).1 (Expect.dyad d) := by
  have hrep := (round_nearest_even (by decide) (by decide) Nat.one_pos h).1
  have hone : convFloat .single sgn r 1 = pack32 (rawFloat sgn r).1 (some d) := h ▸ rfl
  rw [hone, real_pack32 hrep (round_normalised (by decide) Nat.one_pos h)]

/-- F32_TWO_STEP is the binary32 nearest to the quotient of the rounded raw value (R202). -/
theorem f32TwoStep_nearest (sgn : Bool) (r : Word) {div : Nat} (hdiv : 0 < div) :
    Expect.nearest32 (convFloat .f32TwoStep sgn r div) (Expect.real (convFloat .single sgn r 1) / div) := by
  obtain ⟨d, hd⟩ := exists_round_wholeRaw sgn r
  have hden : 0 < (d.toRatio.divNat div).den := divNat_den_pos (toRatio_den_pos d) hdiv
  have hval : Expect.ratio (d.toRatio.divNat div) = Expect.dyad d / div := by rw [ratio_divNat, ratio_toRatio]
  have hsmall : Expect.dyad d ≤ 2 ^ 33 := by
    linarith [dyad_le_of_round (by decide) (by decide) Nat.one_pos hd, ratio_wholeRaw_le sgn r]
  obtain ⟨d₂, hd₂⟩ := exists_round (.inl rfl) hden (hval ▸ (div_natCast_le (dyad_nonneg d) hdiv).trans hsmall)
  rw [convFloat_f32TwoStep sgn r div hd, hd₂, real_convFloat_single_one hd, signed_div, ← hval]
  exact nearest32_pack32 _ hden hd₂

/-- The sign the conversion packs is that of the raw value (R201). -/
theorem rawFloat_sign (sgn : Bool) (r : Word) : (rawFloat sgn r).1 = decide (Expect.rawF sgn r < 0) := by
  cases sgn with
  | false => simp [rawFloat, Expect.rawF]
  | true => cases hm : r.msb <;> simp [rawFloat, Expect.rawF, hm, BitVec.msb_eq_toInt ▸ hm]

/-- F64_THEN_F32 is the binary32 nearest to the quotient rounded to binary64 (R202). -/
theorem f64ThenF32_nearest (sgn : Bool) (r : Word) {div : Nat} (hdiv : 0 < div) {x : Ratio} (hx : 0 < x.den)
    (hval : Expect.ratio x = |Expect.rawF sgn r / div|) :
    ∃ d, Machine.binary64.round x = some d ∧
      Expect.nearest32 (convFloat .f64ThenF32 sgn r div) (signed (rawFloat sgn r).1 (Expect.dyad d)) := by
  have hden : 0 < ((wholeRaw sgn r).divNat div).den := divNat_den_pos Nat.one_pos hdiv
  have hround : Machine.binary64.round x = Machine.binary64.round ((wholeRaw sgn r).divNat div) :=
    round_congr _ hx hden (by rw [hval, rawF_div_eq_signed, abs_signed _ (ratio_nonneg _)])
  have hquot := ratio_wholeRaw_divNat_le sgn r hdiv
  obtain ⟨d, hd⟩ := exists_round (.inr rfl) hden (hquot.trans (by norm_num))
  have hsmall : Expect.ratio d.toRatio ≤ 2 ^ 33 := by
    rw [ratio_toRatio]
    linarith [dyad_le_of_round (by decide) (by decide) hden hd]
  obtain ⟨d₂, hd₂⟩ := exists_round (.inl rfl) (toRatio_den_pos d) hsmall
  refine ⟨d, hround.trans hd, ?_⟩
  rw [convFloat_f64ThenF32 sgn r div hd, hd₂, ← ratio_toRatio]
  exact nearest32_pack32 _ (toRatio_den_pos d) hd₂

/-- Settles O53: each conversion is one more rounding of a value the first step rounded. -/
theorem twoRoundingConversionsRoundTwice : Obligations.TwoRoundingConversionsRoundTwice := by
  unfold Obligations.TwoRoundingConversionsRoundTwice
  refine fun sgn r div hdiv => ⟨f32TwoStep_nearest sgn r hdiv, fun x hx hval => ?_⟩
  obtain ⟨d, hd, hnear⟩ := f64ThenF32_nearest sgn r hdiv hx hval
  refine ⟨d, hd, ?_⟩
  simpa only [rawFloat_sign, signed, decide_eq_true_eq] using hnear

/-- A raw value of at most 24 significant bits is a binary32 (R202). -/
theorem exists_representable_of_short {sgn : Bool} {r : Word} {a k : Nat} (ha : a < 2 ^ 24)
    (hraw : (rawFloat sgn r).2 = a * 2 ^ k) :
    ∃ d, Expect.representable Machine.binary32 d ∧ Expect.dyad d = Expect.ratio (wholeRaw sgn r) := by
  rw [ratio_wholeRaw, hraw]
  rcases Nat.eq_zero_or_pos a with rfl | hpos
  · exact ⟨⟨0, 0⟩, ⟨by decide, by decide, by decide⟩, by simp [Expect.dyad]⟩
  · have hk : k ≤ 32 := by
      have hle : 2 ^ k ≤ 2 ^ 32 :=
        calc 2 ^ k ≤ a * 2 ^ k := Nat.le_mul_of_pos_left _ hpos
          _ ≤ 2 ^ 32 := hraw ▸ rawFloat_le sgn r
      exact (Nat.pow_le_pow_iff_right one_lt_two).mp hle
    refine ⟨⟨a, k⟩, ⟨ha, ?_, ?_⟩, by simp [Expect.dyad]⟩
    · simp only [Machine.binary32]; omega
    · simp only [Machine.binary32]; omega

/-- Settles O54: a raw value that binary32 holds is its own first rounding, so both conversions round the same quotient. -/
theorem twoStepConversionAgreesOnShortRawValues : Obligations.TwoStepConversionAgreesOnShortRawValues := by
  unfold Obligations.TwoStepConversionAgreesOnShortRawValues
  intro sgn r div a k hdiv ha hraw
  rw [rawF_eq_signed, abs_signed _ (Nat.cast_nonneg _), Nat.cast_inj] at hraw
  obtain ⟨d₀, hrep, hd₀⟩ := exists_representable_of_short ha hraw
  obtain ⟨d, hd, hval⟩ := round_of_representable (by decide) (by decide) Nat.one_pos hrep hd₀
  have hquot : Machine.binary32.round (d.toRatio.divNat div) = Machine.binary32.round ((wholeRaw sgn r).divNat div) :=
    round_congr _ (divNat_den_pos (toRatio_den_pos d) hdiv) (divNat_den_pos Nat.one_pos hdiv)
      (by rw [ratio_divNat, ratio_divNat, ratio_toRatio, hval])
  rw [convFloat_f32TwoStep sgn r div hd, hquot, convFloat_single]

end Sys2Proof.Proofs.FloatRegisters

/-! Settles O15 and O16: what reset leaves, and which configurations get as far as reset. `Cfg.valid` has a check that
`PROTO_INIT` is a recognized tag, so reset finds the protocol of that tag and never falls back to a default
(70_reset_and_hazards.md R250, R251). -/

namespace Sys2Proof.Proofs.Reset

open Sys2Proof Sys2Proof.Machine Sys2Proof.Proofs.Selection

/-- `PROTO_INIT` names a protocol in every configuration that passes the checks (R251). -/
theorem exists_ofTag_protoInit_of_valid {c : Cfg} (h : c.valid = true) : ∃ p, Protocol.ofTag c.protoInit = some p := by
  simp only [Cfg.valid, Bool.and_eq_true] at h
  obtain ⟨-, hinit⟩ := h
  exact Option.isSome_iff_exists.mp hinit

/-- A `PROTO_INIT` that is neither tag fails the checks (R251). -/
theorem valid_eq_false_of_protoInit {c : Cfg} (hA : c.protoInit ≠ 0x00) (hB : c.protoInit ≠ 0x01) : c.valid = false := by
  have hnone : Protocol.ofTag c.protoInit = none :=
    (ofTag_eq_none_iff c.protoInit).mpr ⟨fun h => hA (BitVec.eq_of_toNat_eq h), fun h => hB (BitVec.eq_of_toNat_eq h)⟩
  rw [← Bool.not_eq_true]
  intro hvalid
  obtain ⟨p, hp⟩ := exists_ofTag_protoInit_of_valid hvalid
  cases hnone.symm.trans hp

/-- Under a configuration that passes the checks, `PROTO` starts with the tag `PROTO_INIT` (R250, R251). -/
theorem initial_proto_tag_of_valid {c : Cfg} (h : c.valid = true) : (State.initial c).proto.tag = c.protoInit := by
  obtain ⟨p, hp⟩ := exists_ofTag_protoInit_of_valid h
  rw [initial_proto, hp]
  exact Protocol_ofTag_eq_some hp

/-- Configuring succeeds exactly when the checks pass, and then leaves the state right after reset (R251, R253). -/
theorem configure_eq_ok_iff {c : Cfg} {s : State} :
    State.configure c = .ok s ↔ c.valid = true ∧ s = State.initial c := by
  unfold State.configure
  split_ifs with h
  · simp [h, eq_comm]
  · simp [h]

/-- Configuring refuses a configuration that fails the checks (R251). -/
theorem configure_eq_error_of_not_valid {c : Cfg} (h : c.valid = false) :
    State.configure c = .error .badConfiguration := by
  simp [State.configure, h]

/-- Settles O15: the chosen instance passed the checks, so `PROTO` holds its tag; every other register is reset to a
constant. -/
theorem resetLeavesTheSpecValues : Obligations.ResetLeavesTheSpecValues := by
  unfold Obligations.ResetLeavesTheSpecValues
  have hproto : State.reset.proto.tag = Config.chosen.val.protoInit := initial_proto_tag_of_valid Config.chosen.ok
  exact ⟨hproto, rfl, rfl, rfl, rfl, rfl, rfl, rfl, rfl, rfl, rfl, rfl⟩

/-- Settles O16: an unrecognized `PROTO_INIT` fails the checks; an accepted configuration starts with the protocol whose
tag `PROTO_INIT` is. -/
theorem unrecognizedInitialProtocolIsRefused : Obligations.UnrecognizedInitialProtocolIsRefused := by
  unfold Obligations.UnrecognizedInitialProtocolIsRefused
  refine ⟨fun c hA hB => configure_eq_error_of_not_valid (valid_eq_false_of_protoInit hA hB), fun c s hs => ?_⟩
  obtain ⟨hvalid, rfl⟩ := configure_eq_ok_iff.mp hs
  have htag := initial_proto_tag_of_valid hvalid
  refine ⟨?_, initial_cfg c⟩
  cases hp : (State.initial c).proto with
  | A => exact .inl ⟨by rw [← htag, hp]; rfl, rfl⟩
  | B => exact .inr ⟨by rw [← htag, hp]; rfl, rfl⟩

end Sys2Proof.Proofs.Reset
